-- ==== Sys2Proof/Word.lean ====
section
/-! DEFINITION. The word types: what the spec treats as bits (00_scope.md R12, R13; 10_state.md R20, R24). -/

namespace Sys2Proof

/-- A byte of memory, a general register, a timer, an immediate `NN`. -/
abbrev Byte := BitVec 8

/-- A 16-bit word: an opcode, `PC`, `I`, a stack entry. -/
abbrev Word := BitVec 16

/-- A 4-bit unit of an opcode (00_scope.md, glossary "Nibble"): the row count `N`, a key's index. -/
abbrev Nibble := BitVec 4

/-- The 4-bit field that names a general register; always in range (10_state.md R21). -/
abbrev Reg := BitVec 4

/-- The 12-bit address field `NNN` (30_encoding.md R72). -/
abbrev Addr := BitVec 12

/-- `V[15]`, the register the flag results go to (10_state.md R22). -/
abbrev VF : Reg := 0xF#4

end Sys2Proof
end

