-- ==== Sys2Proof/Syntax.lean ====
section
/-! DEFINITION. The instructions: one constructor per row of spec/opcode_table.json (30_encoding.md R76), with the
operand fields of R72 in their exact widths, and the shape of a row of the opcode table. -/

namespace Sys2Proof

/-- The 35 instructions, in the table's order. `x`, `y` are the register fields `X`, `Y`; `nn` is `NN`; `nnn` is
`NNN`; `n` is the row count `N`. 8XY6 and 8XYE carry their `Y` field although no rule reads it (43_alu.md R163), so
that an instruction determines its word (log 15). -/
inductive Instr where
  | nop                              -- 0000
  | cls                              -- 00E0
  | ret                              -- 00EE
  | jp (nnn : Addr)                  -- 1NNN
  | call (nnn : Addr)                -- 2NNN
  | seImm (x : Reg) (nn : Byte)      -- 3XNN
  | sneImm (x : Reg) (nn : Byte)     -- 4XNN
  | seReg (x y : Reg)                -- 5XY0
  | ldImm (x : Reg) (nn : Byte)      -- 6XNN
  | addImm (x : Reg) (nn : Byte)     -- 7XNN
  | ldReg (x y : Reg)                -- 8XY0
  | orReg (x y : Reg)                -- 8XY1
  | andReg (x y : Reg)               -- 8XY2
  | xorReg (x y : Reg)               -- 8XY3
  | addReg (x y : Reg)               -- 8XY4
  | subReg (x y : Reg)               -- 8XY5
  | shr (x y : Reg)                  -- 8XY6
  | subnReg (x y : Reg)              -- 8XY7
  | shl (x y : Reg)                  -- 8XYE
  | sneReg (x y : Reg)               -- 9XY0
  | ldI (nnn : Addr)                 -- ANNN
  | jpV0 (nnn : Addr)                -- BNNN
  | rnd (x : Reg) (nn : Byte)        -- CXNN
  | drw (x y : Reg) (n : Nibble)     -- DXYN
  | skp (x : Reg)                    -- EX9E
  | sknp (x : Reg)                   -- EXA1
  | ldVxDt (x : Reg)                 -- FX07
  | ldVxK (x : Reg)                  -- FX0A
  | ldDtVx (x : Reg)                 -- FX15
  | ldStVx (x : Reg)                 -- FX18
  | addI (x : Reg)                   -- FX1E
  | ldF (x : Reg)                    -- FX29
  | ldB (x : Reg)                    -- FX33
  | ldMemVx (x : Reg)                -- FX55
  | ldVxMem (x : Reg)                -- FX65
  deriving DecidableEq, Repr

/-- A row of the opcode table of R76: a word `w` is of the row when `w AND mask = pattern`. -/
structure OpcodeRow where
  mask    : Word
  pattern : Word
  deriving DecidableEq, Repr

end Sys2Proof
end

