-- ==== Sys2Proof/WellFormed.lean ====
section
/-! DEFINITION. Which words are instructions, written from the opcode map in prose (30_encoding.md R77, R78) and
independently of the decoder. The operand types of `Instr` are exactly the fields of R72, so every term of `Instr`
is well formed (10_state.md R21) and the checks that remain are on words: one for each family of R77 that leaves
words unimplemented (log 16). -/

namespace Sys2Proof

/-- Family 0: "exactly three words are instructions". -/
def wellFormed0 (w : Nat) : Bool := w == 0x0000 || w == 0x00E0 || w == 0x00EE

/-- Families 5 and 9: the words with `N = 0`. -/
def wellFormed59 (w : Nat) : Bool := w % 16 == 0

/-- Family 8: `N` is one of 0 to 7 or E. -/
def wellFormed8 (w : Nat) : Bool := w % 16 < 8 || w % 16 == 0xE

/-- Family E: the low byte is 9E or A1. -/
def wellFormedE (w : Nat) : Bool := w % 256 == 0x9E || w % 256 == 0xA1

/-- Family F: the low byte is one of nine. -/
def wellFormedF (w : Nat) : Bool :=
  [0x07, 0x0A, 0x15, 0x18, 0x1E, 0x29, 0x33, 0x55, 0x65].contains (w % 256)

/-- Does the word spell an instruction, by the opcode map of R77? -/
def wellFormedWord (w : Word) : Bool :=
  match w.toNat / 0x1000 with
  | 0x0 => wellFormed0 w.toNat
  | 0x5 => wellFormed59 w.toNat
  | 0x8 => wellFormed8 w.toNat
  | 0x9 => wellFormed59 w.toNat
  | 0xE => wellFormedE w.toNat
  | 0xF => wellFormedF w.toNat
  | _ => true

end Sys2Proof
end

