-- ==== Sys2Proof/Decode.lean ====
section
/-! DEFINITION. Decode (30_encoding.md R70 to R80): the operand fields, the opcode table's rows, the decoder (by
nibbles, total on any bytes, rejecting by name), and after it the encoder. -/

namespace Sys2Proof

/-! ### The fields of R72 -/

/-- `d1 = op[15:12]`, the family. -/
def fieldD1 (op : Word) : Nibble := op.extractLsb' 12 4
/-- `X = op[11:8]`. -/
def fieldX (op : Word) : Reg := op.extractLsb' 8 4
/-- `Y = op[7:4]`. -/
def fieldY (op : Word) : Reg := op.extractLsb' 4 4
/-- `N = op[3:0]`. -/
def fieldN (op : Word) : Nibble := op.extractLsb' 0 4
/-- `NN = op[7:0]`. -/
def fieldNN (op : Word) : Byte := op.extractLsb' 0 8
/-- `NNN = op[11:0]`. -/
def fieldNNN (op : Word) : Addr := op.extractLsb' 0 12

/-! ### The opcode table of R76 -/

def opcodeRows0to7 : List OpcodeRow :=
  [⟨0xFFFF, 0x0000⟩, ⟨0xFFFF, 0x00E0⟩, ⟨0xFFFF, 0x00EE⟩, ⟨0xF000, 0x1000⟩, ⟨0xF000, 0x2000⟩,
   ⟨0xF000, 0x3000⟩, ⟨0xF000, 0x4000⟩, ⟨0xF00F, 0x5000⟩, ⟨0xF000, 0x6000⟩, ⟨0xF000, 0x7000⟩]

def opcodeRows8 : List OpcodeRow :=
  [⟨0xF00F, 0x8000⟩, ⟨0xF00F, 0x8001⟩, ⟨0xF00F, 0x8002⟩, ⟨0xF00F, 0x8003⟩, ⟨0xF00F, 0x8004⟩,
   ⟨0xF00F, 0x8005⟩, ⟨0xF00F, 0x8006⟩, ⟨0xF00F, 0x8007⟩, ⟨0xF00F, 0x800E⟩]

def opcodeRows9toE : List OpcodeRow :=
  [⟨0xF00F, 0x9000⟩, ⟨0xF000, 0xA000⟩, ⟨0xF000, 0xB000⟩, ⟨0xF000, 0xC000⟩, ⟨0xF000, 0xD000⟩,
   ⟨0xF0FF, 0xE09E⟩, ⟨0xF0FF, 0xE0A1⟩]

def opcodeRowsF : List OpcodeRow :=
  [⟨0xF0FF, 0xF007⟩, ⟨0xF0FF, 0xF00A⟩, ⟨0xF0FF, 0xF015⟩, ⟨0xF0FF, 0xF018⟩, ⟨0xF0FF, 0xF01E⟩,
   ⟨0xF0FF, 0xF029⟩, ⟨0xF0FF, 0xF033⟩, ⟨0xF0FF, 0xF055⟩, ⟨0xF0FF, 0xF065⟩]

/-- The 35 rows of R76, in its order. -/
def opcodeRows : List OpcodeRow := opcodeRows0to7 ++ opcodeRows8 ++ opcodeRows9toE ++ opcodeRowsF

/-- `(opcode AND mask) = match` (R76). -/
def OpcodeRow.admits (r : OpcodeRow) (op : Word) : Bool := op &&& r.mask == r.pattern

/-! ### The decoder -/

/-- Family 0: three words (R77). -/
def decodeFamily0 (op : Word) : Option Instr :=
  match op with
  | 0x0000#16 => some .nop
  | 0x00E0#16 => some .cls
  | 0x00EE#16 => some .ret
  | _ => none

/-- Families 5 and 9 take only `N = 0` (R77). -/
def decodeWhenN0 (op : Word) (i : Instr) : Option Instr :=
  match fieldN op with
  | 0x0#4 => some i
  | _ => none

/-- Family 8: the sub-operation is `N` (R77). -/
def decodeFamily8 (op : Word) : Option Instr :=
  match fieldN op with
  | 0x0#4 => some (.ldReg (fieldX op) (fieldY op))
  | 0x1#4 => some (.orReg (fieldX op) (fieldY op))
  | 0x2#4 => some (.andReg (fieldX op) (fieldY op))
  | 0x3#4 => some (.xorReg (fieldX op) (fieldY op))
  | 0x4#4 => some (.addReg (fieldX op) (fieldY op))
  | 0x5#4 => some (.subReg (fieldX op) (fieldY op))
  | 0x6#4 => some (.shr (fieldX op) (fieldY op))
  | 0x7#4 => some (.subnReg (fieldX op) (fieldY op))
  | 0xE#4 => some (.shl (fieldX op) (fieldY op))
  | _ => none

/-- Family E: the sub-operation is the low byte (R77). -/
def decodeFamilyE (op : Word) : Option Instr :=
  match fieldNN op with
  | 0x9E#8 => some (.skp (fieldX op))
  | 0xA1#8 => some (.sknp (fieldX op))
  | _ => none

/-- Family F: the sub-operation is the low byte (R77). -/
def decodeFamilyF (op : Word) : Option Instr :=
  match fieldNN op with
  | 0x07#8 => some (.ldVxDt (fieldX op))
  | 0x0A#8 => some (.ldVxK (fieldX op))
  | 0x15#8 => some (.ldDtVx (fieldX op))
  | 0x18#8 => some (.ldStVx (fieldX op))
  | 0x1E#8 => some (.addI (fieldX op))
  | 0x29#8 => some (.ldF (fieldX op))
  | 0x33#8 => some (.ldB (fieldX op))
  | 0x55#8 => some (.ldMemVx (fieldX op))
  | 0x65#8 => some (.ldVxMem (fieldX op))
  | _ => none

/-- `Decode(opcode)` (R72, R76): "d1 selects the instruction family". `none` is the fatal decode error of R78. -/
def decodeWord (op : Word) : Option Instr :=
  match fieldD1 op with
  | 0x0#4 => decodeFamily0 op
  | 0x1#4 => some (.jp (fieldNNN op))
  | 0x2#4 => some (.call (fieldNNN op))
  | 0x3#4 => some (.seImm (fieldX op) (fieldNN op))
  | 0x4#4 => some (.sneImm (fieldX op) (fieldNN op))
  | 0x5#4 => decodeWhenN0 op (.seReg (fieldX op) (fieldY op))
  | 0x6#4 => some (.ldImm (fieldX op) (fieldNN op))
  | 0x7#4 => some (.addImm (fieldX op) (fieldNN op))
  | 0x8#4 => decodeFamily8 op
  | 0x9#4 => decodeWhenN0 op (.sneReg (fieldX op) (fieldY op))
  | 0xA#4 => some (.ldI (fieldNNN op))
  | 0xB#4 => some (.jpV0 (fieldNNN op))
  | 0xC#4 => some (.rnd (fieldX op) (fieldNN op))
  | 0xD#4 => some (.drw (fieldX op) (fieldY op) (fieldN op))
  | 0xE#4 => decodeFamilyE op
  | 0xF#4 => decodeFamilyF op
  | _ => none

/-- Why bytes do not decode. -/
inductive DecodeError where
  /-- Fewer than the two bytes every instruction takes (R74). -/
  | truncated
  /-- The word matches no row of the table (R78). -/
  | unimplementedOpcode (op : Word)
  deriving DecidableEq, Repr

/-- The word of two bytes: the byte at the lower address is `opcode[15:8]` (20_memory.md R54). -/
def bigEndian (hi lo : Byte) : Word := hi ++ lo

/-- Decode the instruction at the front of a byte sequence, with the bytes after it. -/
def decode (bytes : List Byte) : Except DecodeError (Instr × List Byte) :=
  match bytes with
  | hi :: lo :: rest =>
    match decodeWord (bigEndian hi lo) with
    | some i => .ok (i, rest)
    | none => .error (.unimplementedOpcode (bigEndian hi lo))
  | _ => .error .truncated

/-! ### The encoder: the formats of R75 -/

/-- Format NNN. -/
def formatNNN (d : Nibble) (nnn : Addr) : Word := d ++ nnn
/-- Format XNN, and format Xkk with the sub-operation in the low byte. -/
def formatXNN (d : Nibble) (x : Reg) (nn : Byte) : Word := d ++ x ++ nn
/-- Formats XYN, XY0 and XYn, with the sub-operation in the low nibble. -/
def formatXYN (d : Nibble) (x y : Reg) (n : Nibble) : Word := d ++ x ++ y ++ n

/-- The word of an instruction. -/
def encode : Instr → Word
  | .nop => 0x0000
  | .cls => 0x00E0
  | .ret => 0x00EE
  | .jp nnn => formatNNN 0x1 nnn
  | .call nnn => formatNNN 0x2 nnn
  | .seImm x nn => formatXNN 0x3 x nn
  | .sneImm x nn => formatXNN 0x4 x nn
  | .seReg x y => formatXYN 0x5 x y 0x0
  | .ldImm x nn => formatXNN 0x6 x nn
  | .addImm x nn => formatXNN 0x7 x nn
  | .ldReg x y => formatXYN 0x8 x y 0x0
  | .orReg x y => formatXYN 0x8 x y 0x1
  | .andReg x y => formatXYN 0x8 x y 0x2
  | .xorReg x y => formatXYN 0x8 x y 0x3
  | .addReg x y => formatXYN 0x8 x y 0x4
  | .subReg x y => formatXYN 0x8 x y 0x5
  | .shr x y => formatXYN 0x8 x y 0x6
  | .subnReg x y => formatXYN 0x8 x y 0x7
  | .shl x y => formatXYN 0x8 x y 0xE
  | .sneReg x y => formatXYN 0x9 x y 0x0
  | .ldI nnn => formatNNN 0xA nnn
  | .jpV0 nnn => formatNNN 0xB nnn
  | .rnd x nn => formatXNN 0xC x nn
  | .drw x y n => formatXYN 0xD x y n
  | .skp x => formatXNN 0xE x 0x9E
  | .sknp x => formatXNN 0xE x 0xA1
  | .ldVxDt x => formatXNN 0xF x 0x07
  | .ldVxK x => formatXNN 0xF x 0x0A
  | .ldDtVx x => formatXNN 0xF x 0x15
  | .ldStVx x => formatXNN 0xF x 0x18
  | .addI x => formatXNN 0xF x 0x1E
  | .ldF x => formatXNN 0xF x 0x29
  | .ldB x => formatXNN 0xF x 0x33
  | .ldMemVx x => formatXNN 0xF x 0x55
  | .ldVxMem x => formatXNN 0xF x 0x65

/-- The bytes of an instruction as memory holds them, the first at the lower address (20_memory.md R54). -/
def encodeBytes (i : Instr) : List Byte :=
  [(encode i).extractLsb' 8 8, (encode i).extractLsb' 0 8]

/-! ### The opcode table's bit numbering -/

/-- The first `nbits` bits of `w` as the one word every instruction has (R74), the bits above `nbits` zero. -/
def tableWord (nbits w : Nat) : Word := BitVec.ofNat 16 (w % 2 ^ nbits)

/-- The two bytes of that word as memory holds them. -/
def tableBytes (nbits w : Nat) : List Byte :=
  [(tableWord nbits w).extractLsb' 8 8, (tableWord nbits w).extractLsb' 0 8]

/-- The instruction the decoder reads from the bits of a row of spec/opcode_table.json. -/
def decodeTableWord (nbits w : Nat) : Option Instr :=
  match decode (tableBytes nbits w) with
  | .ok (i, _) => some i
  | .error _ => none

end Sys2Proof
end

