-- ==== Sys2Proof/Config.lean ====
section
/-! DEFINITION. The implementation parameters of 00_scope.md §3 (R5 to R11), the host's transactions, and the two
things the spec leaves to the host and the model leaves free: the random byte and the host's schedule. The FONT
parameter is a field of State (Machine/State.lean); its default bytes stand in Machine/Font.lean. -/

/-- The host's transactions (10_state.md R39). `cycle` carries the random byte `r` the host supplies, or `none` where
that byte is left free (log 4); `setKey` carries a 4-bit index (60_exceptions.md R235). -/
inductive Sys2Proof.Machine.Transaction where
  | reset
  | load (bytes : List Sys2Proof.Byte)
  | cycle (r : Option Sys2Proof.Byte)
  | tick
  | getDisplay
  | setKey (index : Sys2Proof.Nibble) (pressed : Bool)
  deriving DecidableEq, Repr, Inhabited

namespace Sys2Proof.Config

/-- `MEM_SIZE` (R5). -/
def memSize : Nat := 4096

/-- `LOAD_ADDR` (R6): the reset entry point and where LOAD places a program. -/
def loadAddr : Nat := 0x200

/-- `MAX_LOAD` (R6): the longest program LOAD accepts. -/
def maxLoad : Nat := memSize - loadAddr

/-- `FONT_BASE` (R7). -/
def fontBase : Nat := 0x000

/-- `FONT_SIZE` (R7). -/
def fontSize : Nat := 80

/-- A value of the parameter `FONT : 80 bytes` (R7). -/
abbrev Font := Vector Byte 80

/-- The bytes one glyph takes (R7): 16 glyphs of 5 bytes. -/
def glyphBytes : Nat := 5

/-- The random byte of the `n`-th draw, where the host's schedule does not write the byte out (R10: "a free 8-bit
input to each execution of `0xCXNN`, under no law"). It has no body: no proof can use a value of it.
DESIGN CHOICE, safe (log 4). -/
opaque randomByte : Nat → Byte

/-- The `n`-th transaction of a host whose schedule is not written out (R11; 10_state.md R40: "Any interleaving of CYCLE,
TICK and SETKEY is a possible run; the model must admit every one"). It has no body: no proof can use a value of it, so
a claim about it holds for every endless schedule. DESIGN CHOICE, safe (log 3). -/
opaque hostTransaction : Nat → Sys2Proof.Machine.Transaction

@[simp] theorem memSize_eq : memSize = 4096 := rfl
@[simp] theorem loadAddr_eq : loadAddr = 512 := rfl
@[simp] theorem maxLoad_eq : maxLoad = 3584 := rfl
@[simp] theorem fontBase_eq : fontBase = 0 := rfl
@[simp] theorem fontSize_eq : fontSize = 80 := rfl
@[simp] theorem glyphBytes_eq : glyphBytes = 5 := rfl

end Sys2Proof.Config
end

