-- ==== Sys2Proof/Machine/Font.lean ====
section
/-! DEFINITION. The default of the FONT parameter (00_scope.md R7), the table of 70_reset_and_hazards.md R261.
PRESUMED, unsafe: the source fixes size, place and purpose but not these bytes (log 5). FONT itself is `State.font`, and
the statements about reset hold for every value of it. -/

namespace Sys2Proof.Machine

def fontGlyphs0to3 : List Byte :=
  [0xF0, 0x90, 0x90, 0x90, 0xF0,  0x20, 0x60, 0x20, 0x20, 0x70,
   0xF0, 0x10, 0xF0, 0x80, 0xF0,  0xF0, 0x10, 0xF0, 0x10, 0xF0]

def fontGlyphs4to7 : List Byte :=
  [0x90, 0x90, 0xF0, 0x10, 0x10,  0xF0, 0x80, 0xF0, 0x10, 0xF0,
   0xF0, 0x80, 0xF0, 0x90, 0xF0,  0xF0, 0x10, 0x20, 0x40, 0x40]

def fontGlyphs8toB : List Byte :=
  [0xF0, 0x90, 0xF0, 0x90, 0xF0,  0xF0, 0x90, 0xF0, 0x10, 0xF0,
   0xF0, 0x90, 0xF0, 0x90, 0x90,  0xE0, 0x90, 0xE0, 0x90, 0xE0]

def fontGlyphsCtoF : List Byte :=
  [0xF0, 0x80, 0x80, 0x80, 0xF0,  0xE0, 0x90, 0x90, 0x90, 0xE0,
   0xF0, 0x80, 0xF0, 0x80, 0xF0,  0xF0, 0x80, 0xF0, 0x80, 0x80]

/-- The default of `FONT[0..79]`: glyph `d` is bytes `5*d` to `5*d + 4`. -/
def defaultFontBytes : List Byte := fontGlyphs0to3 ++ fontGlyphs4to7 ++ fontGlyphs8toB ++ fontGlyphsCtoF

/-- The same as a value of the parameter. -/
def defaultFont : Config.Font := ⟨defaultFontBytes.toArray, rfl⟩

end Sys2Proof.Machine
end

