-- ==== Sys2Proof/Machine/State.lean ====
section
/-! DEFINITION. The machine's state as plain data (10_state.md), the host's port (R39), the reasons a step can
stop, and the state after RESET (70_reset_and_hazards.md R260). -/

namespace Sys2Proof.Machine

/-- Memory as the list of the bytes that differ from the reset content with the default FONT, addresses strictly rising
(10_state.md R34; Machine/Ops.lean reads and writes it; log 6). -/
abbrev Memory := List Host.Cell

/-- The framebuffer: 32 rows of 64 one-bit pixels. The pixel at column `x` and row `y`, which the spec calls
`Disp[x + 64*y]` (10_state.md R33), is bit `x` of row `y` (log 11). -/
abbrev Display := Vector (BitVec 64) 32

/-- The host protocol's phase (10_state.md R36). -/
inductive Phase where
  | constructed
  | loaded
  | running
  | halted
  deriving DecidableEq, Repr

/-- The fault reasons of 60_exceptions.md R220, in the order of their codes 1 to 7. They are raised by
`State.raise`, which is a next state in phase Halted. -/
inductive FaultReason where
  | loadTooLarge
  | unimplementedOpcode
  | fetchOutOfRange
  | memoryOutOfRange
  | stackOverflow
  | stackUnderflow
  | keyIndexOutOfRange
  deriving DecidableEq, Repr

/-- The fault record `(reason, pc, opcode)` of 10_state.md R37. -/
structure FaultRecord where
  reason : FaultReason
  pc     : Word
  opcode : Option Word
  deriving DecidableEq, Repr

/-- What a transaction returns to the host (10_state.md R39, outputs): nothing, ok, a fault's reason, the beep of
TICK, the pixels of GETDISPLAY. -/
inductive Response where
  | idle
  | ok
  | faulted (reason : FaultReason)
  | beep (on : Bool)
  | pixels (d : Display)
  deriving DecidableEq, Repr

/-- What the host does after the transactions written out in its queue (log 3): it goes on with a schedule that is left
free, or it issues CYCLEs alone, each with a free random byte. -/
inductive Beyond where
  | free
  | cycles
  deriving DecidableEq, Repr

/-- The host side of the core's boundary. These fields are the model's own, not the spec's:
`inputs` the host's coming transactions, oldest first (log 3);
`beyond` what the host does after them (log 3);
`asked` how many transactions of the free schedule have been taken, the index of the next one (log 3);
`random` the random byte that came with the CYCLE being run, `none` where it is left free (log 4);
`draws` how many random bytes have been drawn, the index of the next free one (log 4);
`response` what the latest transaction returned (log 7). -/
structure HostPort where
  inputs   : List Transaction
  beyond   : Beyond
  asked    : Nat
  random   : Option Byte
  draws    : Nat
  response : Response
  deriving DecidableEq, Repr

/-- Everything the spec gives the machine (10_state.md §1); then the FONT parameter, which no step changes (log 5), and
the host's port. -/
structure State where
  v     : Vector Byte 16
  pc    : Word
  i     : Word
  stack : Vector Word 16
  sp    : Fin 17
  dt    : Byte
  st    : Byte
  key   : Vector Bool 16
  disp  : Display
  mem   : Memory
  phase : Phase
  fault : Option FaultRecord
  font  : Config.Font
  port  : HostPort
  deriving DecidableEq, Repr

/-- The stops of `step`: a transaction that has "no move" (10_state.md R41). Each is a stuck state, raised by `step`
alone (through `Phase.stuck`), never by an instruction. All are safe: the spec gives no behaviour there (log 2). -/
inductive Fault where
  /-- Any transaction in phase Halted (R41, 60_exceptions.md R222). Safe. -/
  | halted
  /-- CYCLE in phase Constructed (R41, 70_reset_and_hazards.md R266). Safe. -/
  | cycleBeforeLoad
  /-- LOAD in phase Loaded or Running (R41). Safe. -/
  | loadNotConstructed
  deriving DecidableEq, Repr

/-- The refusals: only `exec`'s arm of an instruction without a meaning would answer one. Every instruction of this
model has its meaning, so none is answered. Safe. -/
inductive Refusal where
  | notModelled (mnemonic : String)
  deriving DecidableEq, Repr

/-- The outcome of an instruction or a step. -/
abbrev Result := Host.Outcome State Fault Refusal

/-- The host's port with nothing written out, the schedule free, nothing drawn and nothing returned
(logs 3, 4, 7: DESIGN CHOICE). -/
def HostPort.reset : HostPort :=
  { inputs := [], beyond := .free, asked := 0, random := none, draws := 0, response := .idle }

/-- The state after RESET with FONT at its default (70_reset_and_hazards.md R260, R261). Memory lists nothing: every
byte is at its reset content, the font and zeros (Machine/Ops.lean, `Memory.resetByte`). `State.resetWith`
(Machine/Ops.lean) is the same for any FONT. -/
def State.reset : State :=
  { v     := Vector.replicate 16 0x00#8
    pc    := 0x0200#16
    i     := 0x0000#16
    stack := Vector.replicate 16 0x0000#16
    sp    := 0
    dt    := 0x00#8
    st    := 0x00#8
    key   := Vector.replicate 16 false
    disp  := Vector.replicate 32 0#64
    mem   := []
    phase := .constructed
    fault := none
    font  := defaultFont
    port  := HostPort.reset }

end Sys2Proof.Machine
end

