-- ==== Sys2Proof/Machine/Ops.lean ====
section
/-! DEFINITION. The named operations over memory, the display, the registers, the stack and the keys, and `raise`,
the one way the core takes a fault (00_scope.md R15). -/

namespace Sys2Proof.Machine

/-! ### Memory (20_memory.md) -/

/-- What an address reads as when the list does not hold it: the reset content of 10_state.md R34 with the default FONT,
the font at `FONT_BASE` and 0 elsewhere (log 6). A core with another FONT lists the bytes that differ. -/
def Memory.resetByte (a : Nat) : Byte :=
  if Config.fontBase ≤ a ∧ a < Config.fontBase + Config.fontSize then defaultFontBytes.getD (a - Config.fontBase) 0 else 0

/-- `MemRead(a, 1)`. Every caller has checked its range first (R57). -/
def Memory.read : Memory → Nat → Byte
  | [], a => resetByte a
  | (b, w) :: rest, a => if a = b then w else Memory.read rest a

/-- Put a byte that differs from the reset content at its place in the rising list. -/
def Memory.insert : Memory → Nat → Byte → Memory
  | [], a, w => [(a, w)]
  | (b, u) :: rest, a, w =>
    if a < b then (a, w) :: (b, u) :: rest
    else if a = b then (a, w) :: rest
    else (b, u) :: Memory.insert rest a w

/-- Drop the entry of an address. -/
def Memory.erase (m : Memory) (a : Nat) : Memory := m.filter (fun c => c.1 != a)

/-- `MemWrite(a, 1, w)`. The list stays canonical: a byte at its reset content is not listed. No address past memory
is ever listed. -/
def Memory.write (m : Memory) (a : Nat) (w : Byte) : Memory :=
  if Config.memSize ≤ a then m
  else if w = resetByte a then m.erase a
  else m.insert a w

/-- Single-byte writes at ascending addresses (R55). -/
def Memory.writeBytes : Memory → Nat → List Byte → Memory
  | m, _, [] => m
  | m, a, w :: ws => Memory.writeBytes (m.write a w) (a + 1) ws

/-- Single-byte reads at ascending addresses (R55). -/
def Memory.readBytes (m : Memory) (a : Nat) : Nat → List Byte
  | 0 => []
  | n + 1 => m.read a :: m.readBytes (a + 1) n

/-- The canonical form, from a least address on. -/
def Memory.wfFrom (low : Nat) : Memory → Bool
  | [] => true
  | (a, w) :: rest =>
    decide (low ≤ a) && decide (a < Config.memSize) && w != resetByte a && Memory.wfFrom (a + 1) rest

/-- The canonical form: addresses strictly rising and in memory, no byte at its reset content. -/
def Memory.wf (m : Memory) : Bool := m.wfFrom 0

/-- `InRange(base, count)` of R57, on exact integers. -/
def inRange (base count : Nat) : Bool := count == 0 || decide (base + count - 1 ≤ 0xFFF)

/-- Memory after RESET with a FONT (10_state.md R34): the font's bytes at `FONT_BASE`, 0 elsewhere. -/
def Memory.ofFont (f : Config.Font) : Memory := Memory.writeBytes [] Config.fontBase f.toList

/-! ### Reset (70_reset_and_hazards.md R260) -/

/-- The state after RESET with the FONT parameter at a value, and the host's port as given. -/
def State.resetWith (f : Config.Font) (p : HostPort) : State :=
  { State.reset with mem := Memory.ofFont f, font := f, port := p }

/-! ### Plain updates of one element -/

def State.setPc (s : State) (w : Word) : State := { s with pc := w }
def State.setI (s : State) (w : Word) : State := { s with i := w }
def State.setDt (s : State) (b : Byte) : State := { s with dt := b }
def State.setSt (s : State) (b : Byte) : State := { s with st := b }
def State.setDisp (s : State) (d : Display) : State := { s with disp := d }
def State.setMem (s : State) (m : Memory) : State := { s with mem := m }
def State.setPhase (s : State) (p : Phase) : State := { s with phase := p }
def State.setPort (s : State) (p : HostPort) : State := { s with port := p }

/-- `V[x] <- b`. -/
def State.writeV (s : State) (x : Reg) (b : Byte) : State := { s with v := s.v.set x.toNat b x.isLt }

/-- `Key[k] <- pressed`. -/
def State.writeKey (s : State) (k : Nibble) (pressed : Bool) : State :=
  { s with key := s.key.set k.toNat pressed k.isLt }

/-- Return a response to the host. -/
def State.respond (s : State) (r : Response) : State := s.setPort { s.port with response := r }

/-! ### Taking a fault -/

/-- The code of a fault reason (60_exceptions.md R220). -/
def FaultReason.code : FaultReason → Nat
  | .loadTooLarge => 1
  | .unimplementedOpcode => 2
  | .fetchOutOfRange => 3
  | .memoryOutOfRange => 4
  | .stackOverflow => 5
  | .stackUnderflow => 6
  | .keyIndexOutOfRange => 7

/-- `raise Fault(reason)` (00_scope.md R15, 60_exceptions.md R221, R222): `PC` is the value before the transaction
(its other writes have not begun, R16), the record is written, the core enters Halted, and the host sees the reason.
A next state, from which no transaction has a move (log 1). -/
def State.raise (s : State) (reason : FaultReason) (pc0 : Word) (opcode : Option Word) : State :=
  { s with
    pc := pc0
    phase := .halted
    fault := some ⟨reason, pc0, opcode⟩
    port := { s.port with response := .faulted reason } }

/-- `raise` inside an instruction: `PC` stands 2 past the instruction (10_state.md R24), whose word is recorded
(log 9). -/
def State.raiseIn (s : State) (reason : FaultReason) (i : Instr) : State :=
  s.raise reason (s.pc - 2) (some (encode i))

/-! ### Fetch -/

/-- `Fetch16(a)` (30_encoding.md R71); `none` is `Fault(FetchOutOfRange)`. -/
def State.fetch16 (s : State) (a : Word) : Option Word :=
  if 0xFFF < a.toNat + 1 then none
  else some (bigEndian (s.mem.read a.toNat) (s.mem.read (a.toNat + 1)))

/-! ### Program counter -/

/-- `Skip()` (42_flow.md R126). -/
def State.skip (s : State) : State := s.setPc (s.pc + 2)

/-- Skip the next word if the condition holds. -/
def State.skipIf (s : State) (c : Bool) : State := if c then s.skip else s

/-- The rewind of FX0A (45_keys_timers.md R204): the same instruction is fetched next cycle. -/
def State.rewind (s : State) : State := s.setPc (s.pc - 2)

/-! ### Stack (10_state.md R29, R30) -/

/-- Push a return address: write `Stack[SP]`, then increment `SP`. `none` when the stack is full. -/
def State.push (s : State) (w : Word) : Option State :=
  if h : s.sp.val < 16 then
    some { s with stack := s.stack.set s.sp.val w h, sp := ⟨s.sp.val + 1, by omega⟩ }
  else none

/-- Pop into `PC`: decrement `SP`, then read `Stack[SP]`, which keeps its value. `none` when the stack is empty. -/
def State.popPc (s : State) : Option State :=
  if h : s.sp.val = 0 then none
  else
    have hlt : s.sp.val - 1 < 16 := by omega
    some { s with sp := ⟨s.sp.val - 1, by omega⟩, pc := s.stack[s.sp.val - 1] }

/-! ### Keys (45_keys_timers.md) -/

/-- `KeyAt(v)` (R200); `none` is `Fault(KeyIndexOutOfRange)`. -/
def State.keyAt (s : State) (b : Byte) : Option Bool := s.key[b.toNat]?

/-- "the least such k" (R204): the least index of a pressed key. -/
def State.leastKey (s : State) : Option Nat := s.key.toList.findIdx? (fun pressed => pressed)

/-! ### Random bytes (00_scope.md R10) -/

/-- `DrawRandom()`: the byte the host supplied with this CYCLE, or the next free byte where it supplied none. -/
def State.drawRandom (s : State) : Byte := s.port.random.getD (Config.randomByte s.port.draws)

/-- The draw is used up: a later draw is another byte (log 4). -/
def State.consumeRandom (s : State) : State :=
  s.setPort { s.port with random := none, draws := s.port.draws + 1 }

/-! ### Display (41_display.md R101) -/

/-- The pixel at a column and a row. -/
def Display.pixel (d : Display) (x : Fin 64) (y : Fin 32) : Bool := d[y].getLsbD x.val

/-- `Disp[idx]`: the pixel of column `idx mod 64` and row `idx / 64` (10_state.md R33). -/
def Display.at (d : Display) (idx : Fin 2048) : Bool :=
  Display.pixel d ⟨idx.val % 64, by omega⟩ ⟨idx.val / 64, by omega⟩

/-- `Disp[idx] <- Disp[idx] XOR 1` at a column and a row. -/
def Display.flip (d : Display) (x : Fin 64) (y : Fin 32) : Display :=
  d.set y.val (d[y] ^^^ (1#64 <<< x.val)) y.isLt

/-- One sprite pixel: the display and the collision so far, before and after. -/
def drawPixel (x : Fin 64) (y : Fin 32) (c : Display × Bool) : Display × Bool :=
  (Display.flip c.1 x y, c.2 || Display.pixel c.1 x y)

/-- One sprite row, "read MSB-first as 8 pixels", from column `x0` on row `y`, both wrapped. -/
def drawRow (x0 y : Nat) (bits : Byte) (c : Display × Bool) : Display × Bool :=
  (List.range 8).foldl
    (fun c k => if bits.getLsbD (7 - k) then drawPixel (Fin.ofNat 64 (x0 + k)) (Fin.ofNat 32 y) c else c) c

/-- The sprite's rows downward from row `y`. -/
def drawRows (x0 : Nat) : Nat → List Byte → Display × Bool → Display × Bool
  | _, [], c => c
  | y, bits :: rows, c => drawRows x0 (y + 1) rows (drawRow x0 y bits c)

/-- The cleared display (R100). -/
def Display.clear : Display := Vector.replicate 32 0#64

end Sys2Proof.Machine
end

