-- ==== Sys2Proof/Machine/Operands.lean ====
section
/-! DEFINITION. The operand forms: a register (10_state.md R20), an immediate (30_encoding.md R73), a 12-bit address,
and the only addressing mode, `I + k` (44_index_memory.md), with the register lists of FX55 and FX65. -/

namespace Sys2Proof.Machine

/-- `V[x]`. -/
def State.readV (s : State) (x : Reg) : Byte := s.v[x.toNat]'x.isLt

/-- `zext_16(NNN)` (R73). -/
def zext16 (nnn : Addr) : Word := nnn.setWidth 16

/-- The exact data address `I + k` (20_memory.md R56). -/
def State.dataAddr (s : State) (k : Nat) : Nat := s.i.toNat + k

/-- `CheckRange(I, count)` (20_memory.md R57): are the `count` bytes from `I` on in memory? -/
def State.dataInRange (s : State) (count : Nat) : Bool := inRange (s.dataAddr 0) count

/-- The bytes at `I`, `I + 1`, ..., `count` of them. -/
def State.loadData (s : State) (count : Nat) : List Byte := s.mem.readBytes (s.dataAddr 0) count

/-- Store bytes at `I`, `I + 1`, ... -/
def State.storeData (s : State) (bytes : List Byte) : State :=
  s.setMem (s.mem.writeBytes (s.dataAddr 0) bytes)

/-- `V[0]` to `V[x]`, in that order (R184). -/
def State.regsUpTo (s : State) (x : Reg) : List Byte := s.v.toList.take (x.toNat + 1)

/-- `V[k] <- MemRead(I + k, 1)` for `k` in `0..x` (R185). -/
def State.loadRegs (s : State) (x : Reg) : State :=
  { s with v := Vector.ofFn fun k : Fin 16 => if k.val ≤ x.toNat then s.mem.read (s.dataAddr k.val) else s.v[k] }

/-- The decimal digits of a byte, hundreds first (R183). -/
def bcdDigits (b : Byte) : List Byte :=
  [BitVec.ofNat 8 (b.toNat / 100), BitVec.ofNat 8 (b.toNat / 10 % 10), BitVec.ofNat 8 (b.toNat % 10)]

end Sys2Proof.Machine
end

