-- ==== Sys2Proof/Machine/Flags.lean ====
section
/-! DEFINITION. The flag values that go to VF (10_state.md R22, R23; 43_alu.md). Operands are taken as exact integers
(00_scope.md R13). -/

namespace Sys2Proof.Machine

/-- A flag as the byte VF holds. -/
def flagByte (c : Bool) : Byte := if c then 0x01#8 else 0x00#8

/-- The carry of 8XY4 (R156): `a + b > 255`. -/
def carryFlag (a b : Byte) : Byte := flagByte (decide (255 < a.toNat + b.toNat))

/-- The not-borrow of `a - b` in 8XY5 and 8XY7 (R157, R159): `a >= b`. -/
def noBorrowFlag (a b : Byte) : Byte := flagByte (decide (b.toNat ≤ a.toNat))

/-- The bit 8XY6 shifts out (R158): `V[X] AND 0x01`. -/
def shiftedOutRight (a : Byte) : Byte := a &&& 0x01#8

/-- The bit 8XYE shifts out (R160): "top bit of VX", 0 or 1. -/
def shiftedOutLeft (a : Byte) : Byte := flagByte a.msb

/-- The collision of DXYN (41_display.md R101). -/
def collisionFlag (hit : Bool) : Byte := flagByte hit

/-- `V[15] <- flag`. -/
def State.setFlag (s : State) (f : Byte) : State := s.writeV VF f

end Sys2Proof.Machine
end

