-- ==== Sys2Proof/Machine/Alu.lean ====
section
/-! DEFINITION. Register loads, arithmetic, logic and random (43_alu.md). Where `V[X]` and VF are both written, the
order is the rule's, so the later write stands when `X = 15` (R162). -/

namespace Sys2Proof.Machine

/-- 6XNN LD VX, NN (R150). -/
def execLdImm (x : Reg) (nn : Byte) (s : State) : Result := .next (s.writeV x nn)

/-- 7XNN ADD VX, NN (R151): no flag. -/
def execAddImm (x : Reg) (nn : Byte) (s : State) : Result := .next (s.writeV x (s.readV x + nn))

/-- 8XY0 LD VX, VY (R152). -/
def execLdReg (x y : Reg) (s : State) : Result := .next (s.writeV x (s.readV y))

/-- 8XY1 OR VX, VY (R153). -/
def execOrReg (x y : Reg) (s : State) : Result := .next (s.writeV x (s.readV x ||| s.readV y))

/-- 8XY2 AND VX, VY (R154). -/
def execAndReg (x y : Reg) (s : State) : Result := .next (s.writeV x (s.readV x &&& s.readV y))

/-- 8XY3 XOR VX, VY (R155). -/
def execXorReg (x y : Reg) (s : State) : Result := .next (s.writeV x (s.readV x ^^^ s.readV y))

/-- 8XY4 ADD VX, VY (R156): sum first, carry last. -/
def execAddReg (x y : Reg) (s : State) : Result :=
  let a := s.readV x
  let b := s.readV y
  .next ((s.writeV x (BitVec.ofNat 8 (a.toNat + b.toNat))).setFlag (carryFlag a b))

/-- 8XY5 SUB VX, VY (R157): difference first, not-borrow last. -/
def execSubReg (x y : Reg) (s : State) : Result :=
  let a := s.readV x
  let b := s.readV y
  .next ((s.writeV x (a - b)).setFlag (noBorrowFlag a b))

/-- 8XY6 SHR VX (R158): VF first; the shift reads `V[X]` after that write. `Y` is not read (R163). -/
def execShr (x _y : Reg) (s : State) : Result :=
  let t := s.setFlag (shiftedOutRight (s.readV x))
  .next (t.writeV x (t.readV x >>> 1))

/-- 8XY7 SUBN VX, VY (R159): difference first, not-borrow last. -/
def execSubnReg (x y : Reg) (s : State) : Result :=
  let a := s.readV x
  let b := s.readV y
  .next ((s.writeV x (b - a)).setFlag (noBorrowFlag b a))

/-- 8XYE SHL VX (R160): VF first; the shift reads `V[X]` after that write. `Y` is not read (R163). -/
def execShl (x _y : Reg) (s : State) : Result :=
  let t := s.setFlag (shiftedOutLeft (s.readV x))
  .next (t.writeV x (t.readV x <<< 1))

/-- CXNN RND VX, NN (R165): the drawn byte is the host's, or free (log 4). -/
def execRnd (x : Reg) (nn : Byte) (s : State) : Result :=
  .next (s.consumeRandom.writeV x (s.drawRandom &&& nn))

end Sys2Proof.Machine
end

