-- ==== Sys2Proof/Machine/Display.lean ====
section
/-! DEFINITION. The display instructions (41_display.md). -/

namespace Sys2Proof.Machine

/-- 00E0 CLS (R100). -/
def execCls (s : State) : Result := .next (s.setDisp Display.clear)

/-- DXYN DRW VX, VY, N (R101): coordinates read first, the range checked, the rows read, the pixels drawn, VF last. -/
def execDrw (x y : Reg) (n : Nibble) (s : State) : Result :=
  let x0 := (s.readV x).toNat
  let y0 := (s.readV y).toNat
  if s.dataInRange n.toNat then
    let drawn := drawRows x0 y0 (s.loadData n.toNat) (s.disp, false)
    .next ((s.setDisp drawn.1).setFlag (collisionFlag drawn.2))
  else .next (s.raiseIn .memoryOutOfRange (.drw x y n))

end Sys2Proof.Machine
end

