-- ==== Sys2Proof/Machine/Flow.lean ====
section
/-! DEFINITION. Control flow, calls, skips and the no-op (42_flow.md). `PC` has been advanced by 2 (10_state.md R24). -/

namespace Sys2Proof.Machine

/-- 0000 NOP (R120). -/
def execNop (s : State) : Result := .next s

/-- 00EE RET (R121). -/
def execRet (s : State) : Result :=
  match s.popPc with
  | some t => .next t
  | none => .next (s.raiseIn .stackUnderflow .ret)

/-- 1NNN JP NNN (R122). -/
def execJp (nnn : Addr) (s : State) : Result := .next (s.setPc (zext16 nnn))

/-- 2NNN CALL NNN (R123): the pushed value is the address of the call plus 2. -/
def execCall (nnn : Addr) (s : State) : Result :=
  match s.push s.pc with
  | some t => .next (t.setPc (zext16 nnn))
  | none => .next (s.raiseIn .stackOverflow (.call nnn))

/-- 3XNN SE VX, NN (R127). -/
def execSeImm (x : Reg) (nn : Byte) (s : State) : Result := .next (s.skipIf (s.readV x == nn))

/-- 4XNN SNE VX, NN (R128). -/
def execSneImm (x : Reg) (nn : Byte) (s : State) : Result := .next (s.skipIf (s.readV x != nn))

/-- 5XY0 SE VX, VY (R129). -/
def execSeReg (x y : Reg) (s : State) : Result := .next (s.skipIf (s.readV x == s.readV y))

/-- 9XY0 SNE VX, VY (R130). -/
def execSneReg (x y : Reg) (s : State) : Result := .next (s.skipIf (s.readV x != s.readV y))

/-- BNNN JP V0, NNN (R131): always `V0`, no mask to 12 bits. -/
def execJpV0 (nnn : Addr) (s : State) : Result :=
  .next (s.setPc (BitVec.ofNat 16 ((s.readV 0).toNat + nnn.toNat)))

end Sys2Proof.Machine
end

