-- ==== Sys2Proof/Machine/IndexMemory.lean ====
section
/-! DEFINITION. Index register and memory instructions (44_index_memory.md). `I` is changed by ANNN, FX1E and FX29
alone. -/

namespace Sys2Proof.Machine

/-- ANNN LD I, NNN (R180). -/
def execLdI (nnn : Addr) (s : State) : Result := .next (s.setI (zext16 nnn))

/-- FX1E ADD I, VX (R181): mod 2^16, no flag. -/
def execAddI (x : Reg) (s : State) : Result := .next (s.setI (BitVec.ofNat 16 (s.i.toNat + (s.readV x).toNat)))

/-- FX29 LD F, VX (R182): no mask to the low nibble. -/
def execLdF (x : Reg) (s : State) : Result :=
  .next (s.setI (BitVec.ofNat 16 (Config.fontBase + Config.glyphBytes * (s.readV x).toNat)))

/-- FX33 LD B, VX (R183). -/
def execLdB (x : Reg) (s : State) : Result :=
  if s.dataInRange 3 then .next (s.storeData (bcdDigits (s.readV x)))
  else .next (s.raiseIn .memoryOutOfRange (.ldB x))

/-- FX55 LD [I], VX (R184). -/
def execLdMemVx (x : Reg) (s : State) : Result :=
  if s.dataInRange (x.toNat + 1) then .next (s.storeData (s.regsUpTo x))
  else .next (s.raiseIn .memoryOutOfRange (.ldMemVx x))

/-- FX65 LD VX, [I] (R185). -/
def execLdVxMem (x : Reg) (s : State) : Result :=
  if s.dataInRange (x.toNat + 1) then .next (s.loadRegs x)
  else .next (s.raiseIn .memoryOutOfRange (.ldVxMem x))

end Sys2Proof.Machine
end

