-- ==== Sys2Proof/Machine/KeysTimers.lean ====
section
/-! DEFINITION. Keypad and timer instructions (45_keys_timers.md). Keys are levels, written by SETKEY alone; timers
count down on TICK alone. -/

namespace Sys2Proof.Machine

/-- EX9E SKP VX (R200, R201). -/
def execSkp (x : Reg) (s : State) : Result :=
  match s.keyAt (s.readV x) with
  | some pressed => .next (s.skipIf pressed)
  | none => .next (s.raiseIn .keyIndexOutOfRange (.skp x))

/-- EXA1 SKNP VX (R200, R202). -/
def execSknp (x : Reg) (s : State) : Result :=
  match s.keyAt (s.readV x) with
  | some pressed => .next (s.skipIf (!pressed))
  | none => .next (s.raiseIn .keyIndexOutOfRange (.sknp x))

/-- FX07 LD VX, DT (R203). -/
def execLdVxDt (x : Reg) (s : State) : Result := .next (s.writeV x s.dt)

/-- FX0A LD VX, K (R204): the least pressed key, else the rewind. -/
def execLdVxK (x : Reg) (s : State) : Result :=
  match s.leastKey with
  | some k => .next (s.writeV x (BitVec.ofNat 8 k))
  | none => .next s.rewind

/-- FX15 LD DT, VX (R205). -/
def execLdDtVx (x : Reg) (s : State) : Result := .next (s.setDt (s.readV x))

/-- FX18 LD ST, VX (R206). -/
def execLdStVx (x : Reg) (s : State) : Result := .next (s.setSt (s.readV x))

end Sys2Proof.Machine
end

