-- ==== Sys2Proof/Machine/Transactions.lean ====
section
/-! DEFINITION. The host's transactions (10_state.md R39): which has a move in which phase, and what each does. The
transaction has already been taken from the host's queue when these run. -/

namespace Sys2Proof.Machine

/-- The "no move" cells of the table of 10_state.md R41, each with the name of its stop (log 2). -/
def Phase.stuck : Phase → Transaction → Option Fault
  | .halted, _ => some .halted
  | .constructed, .cycle _ => some .cycleBeforeLoad
  | .loaded, .load _ => some .loadNotConstructed
  | .running, .load _ => some .loadNotConstructed
  | .constructed, _ => none
  | .loaded, _ => none
  | .running, _ => none

/-- `RESET()` (70_reset_and_hazards.md R260), with the FONT the core has. The host's coming transactions and the count
of draws are the host's, not the core's, and are kept (log 13). -/
def State.resetCore (s : State) : State :=
  State.resetWith s.font { s.port with random := none, response := .idle }

/-- `LOAD(bytes)` (R264, R265). -/
def State.loadProgram (bytes : List Byte) (s : State) : State :=
  if Config.maxLoad < bytes.length then s.raise .loadTooLarge s.pc none
  else ((s.setMem (s.mem.writeBytes Config.loadAddr bytes)).setPhase .loaded).respond .ok

/-- `TICK()` (60_exceptions.md R232, R233): the beep is returned exactly when `ST` goes from 1 to 0. -/
def State.tick (s : State) : State :=
  let beep := s.st == 1
  let t := if s.dt != 0 then s.setDt (s.dt - 1) else s
  let u := if t.st != 0 then t.setSt (t.st - 1) else t
  u.respond (.beep beep)

/-- `GETDISPLAY()` (R237). -/
def State.getDisplay (s : State) : State := s.respond (.pixels s.disp)

/-- `SETKEY(index, pressed)` (R235). -/
def State.pressKey (index : Nibble) (pressed : Bool) (s : State) : State :=
  (s.writeKey index pressed).respond .idle

/-- The part of CYCLE before Execute (30_encoding.md R70): `PC` advanced by 2, the random byte at hand. `phase` is
written here and not after Execute: no instruction reads it, and a fault overwrites it with Halted (log 14). -/
def State.beginCycle (r : Option Byte) (s : State) : State :=
  ((s.setPc (s.pc + 2)).setPhase .running).setPort { s.port with random := r, response := .ok }

/-- `CYCLE(r)` (R70), with the checks in the order of 60_exceptions.md R223. `r` is `none` where the host's byte is
left free. -/
def State.cycle (r : Option Byte) (s : State) : Result :=
  match s.fetch16 s.pc with
  | none => .next (s.raise .fetchOutOfRange s.pc none)
  | some op =>
    match decodeWord op with
    | none => .next (s.raise .unimplementedOpcode s.pc (some op))
    | some i => exec i (s.beginCycle r)

/-- Perform a transaction that has a move. -/
def State.transact (t : Transaction) (s : State) : Result :=
  match t with
  | .reset => .next s.resetCore
  | .load bytes => .next (s.loadProgram bytes)
  | .cycle r => s.cycle r
  | .tick => .next s.tick
  | .getDisplay => .next s.getDisplay
  | .setKey index pressed => .next (s.pressKey index pressed)

/-- Write out the host's queue: a schedule, which is the host's own choice (log 3). -/
def State.setInputs (s : State) (ts : List Transaction) : State := s.setPort { s.port with inputs := ts }

/-- A transaction, if the phase gives it a move (R41). -/
def State.transactIfMove (t : Transaction) (s : State) : Result :=
  match s.phase.stuck t with
  | some f => .fault f
  | none => s.transact t

/-- The host's next transaction: the head of its queue; after the queue, the next of the free schedule, or a CYCLE with
a free random byte (10_state.md R40; log 3). -/
def HostPort.next (p : HostPort) : Transaction :=
  match p.inputs, p.beyond with
  | x :: _, _ => x
  | [], .free => Config.hostTransaction p.asked
  | [], .cycles => .cycle none

/-- The port once that transaction is taken. -/
def HostPort.taken (p : HostPort) : HostPort :=
  match p.inputs, p.beyond with
  | _ :: rest, _ => { p with inputs := rest }
  | [], .free => { p with asked := p.asked + 1 }
  | [], .cycles => p

/-- The state with a two-byte instruction stored where the next step fetches, and all that this takes
(70_reset_and_hazards.md R266: a program runs after LOAD): the host issues CYCLEs, so the next step is one; a phase that
gives CYCLE no move becomes Loaded, with no fault on record; a `PC` that cannot be fetched from becomes the load
address (log 8). -/
def State.placeWord (s : State) (bytes : List Byte) : State :=
  let pc := if 0xFFF < s.pc.toNat + 1 then BitVec.ofNat 16 Config.loadAddr else s.pc
  { s with
    pc := pc
    mem := s.mem.writeBytes pc.toNat bytes
    phase := if s.phase = .running then .running else .loaded
    fault := none
    port := { s.port with inputs := [], beyond := .cycles } }

end Sys2Proof.Machine
end

