-- ==== Sys2Proof/Machine/Step.lean ====
section
/-! DEFINITION. One step: the host's next transaction (10_state.md R40: "one transaction per step"). -/

namespace Sys2Proof.Machine

/-- Take the host's next transaction (log 3) and perform it, if it has a move. -/
def step (s : State) : Host.Outcome State Fault Refusal :=
  (s.setPort s.port.taken).transactIfMove s.port.next

/-- The state in which the next step fetches and runs the instruction whose table bits are `w`. -/
def State.withFetchWord (s : State) (nbits w : Nat) : State := s.placeWord (tableBytes nbits w)

end Sys2Proof.Machine
end

