-- ==== Sys2Proof/Safety.lean ====
section
/-! DEFINITION. What counts as a safe state, the invariants, and the vocabulary the statements are written in: which
parts of the state an instruction may change, where it completes, and where it raises. -/

namespace Sys2Proof.Machine

/-! ### Safe states and invariants -/

/-- No fault has been taken (10_state.md R37): a run is safe as long as this holds. -/
def State.Unfaulted (s : State) : Prop := s.fault = none ∧ s.phase ≠ .halted

/-- A fault is on record exactly in phase Halted (10_state.md R36, R37). -/
def State.FaultCoherent (s : State) : Prop := s.fault.isSome = true ↔ s.phase = .halted

/-- The invariant every step keeps: memory in its canonical form, and the fault record coherent with the phase. -/
def State.Inv (s : State) : Prop := s.mem.wf = true ∧ s.FaultCoherent

/-- The bounds of 10_state.md R26: no rule writes `PC` past 0x10FE, and a pushed return address is at most 0x1000. -/
def State.PcBounded (s : State) : Prop :=
  s.pc.toNat ≤ 0x10FE ∧ ∀ k : Fin 16, s.stack[k].toNat ≤ 0x1000

/-- The host's next transaction is a CYCLE. -/
def State.CycleIsNext (s : State) : Prop := ∃ r, s.port.next = .cycle r

/-- The next transaction is a CYCLE that fetches this word. -/
def State.CycleFetches (s : State) (w : Word) : Prop := s.CycleIsNext ∧ s.fetch16 s.pc = some w

/-! ### Reset -/

/-- Every element of the state as RESET leaves it, with the FONT parameter at a value (70_reset_and_hazards.md R260). -/
def State.AtReset (f : Config.Font) (t : State) : Prop :=
  (∀ x : Reg, t.readV x = 0) ∧ t.i = 0 ∧ t.pc = 0x200 ∧ (∀ k : Fin 16, t.stack[k] = 0) ∧ t.sp = 0 ∧
  t.dt = 0 ∧ t.st = 0 ∧ (∀ k : Fin 16, t.key[k] = false) ∧
  (∀ idx : Fin 2048, Display.at t.disp idx = false) ∧
  (∀ k : Fin 80, t.mem.read (0x000 + k.val) = f[k]) ∧ (∀ a, 80 ≤ a → a < 4096 → t.mem.read a = 0) ∧
  t.phase = .constructed ∧ t.fault = none ∧ t.font = f

/-! ### The table of faults -/

/-- The table of 60_exceptions.md R220, row by row: the next transaction raises this fault, with this opcode to be
recorded (R221). -/
def State.FaultDue (s : State) : FaultReason → Option Word → Prop
  | .loadTooLarge, op => op = none ∧ ∃ bytes, s.port.next = .load bytes ∧ 3584 < bytes.length
  | .unimplementedOpcode, op =>
    ∃ w, op = some w ∧ s.CycleFetches w ∧ ∀ row ∈ opcodeRows, w &&& row.mask ≠ row.pattern
  | .fetchOutOfRange, op => op = none ∧ s.CycleIsNext ∧ 0xFFF < s.pc.toNat + 1
  | .memoryOutOfRange, op =>
    ∃ w, op = some w ∧ s.CycleFetches w ∧
      ((∃ x y n, decodeWord w = some (.drw x y n) ∧ ∃ k, k < n.toNat ∧ 0xFFF < s.i.toNat + k) ∨
       (∃ x, decodeWord w = some (.ldB x) ∧ ∃ k, k < 3 ∧ 0xFFF < s.i.toNat + k) ∨
       (∃ x, decodeWord w = some (.ldMemVx x) ∧ ∃ k, k ≤ x.toNat ∧ 0xFFF < s.i.toNat + k) ∨
       (∃ x, decodeWord w = some (.ldVxMem x) ∧ ∃ k, k ≤ x.toNat ∧ 0xFFF < s.i.toNat + k))
  | .stackOverflow, op =>
    ∃ w, op = some w ∧ s.CycleFetches w ∧ (∃ nnn, decodeWord w = some (.call nnn)) ∧ s.sp.val = 16
  | .stackUnderflow, op => ∃ w, op = some w ∧ s.CycleFetches w ∧ decodeWord w = some .ret ∧ s.sp.val = 0
  | .keyIndexOutOfRange, op =>
    ∃ w, op = some w ∧ s.CycleFetches w ∧
      ∃ x, (decodeWord w = some (.skp x) ∨ decodeWord w = some (.sknp x)) ∧ 15 < (s.readV x).toNat

/-! ### Operand fields -/

/-- Every operand of the instruction is its field of the word (30_encoding.md R72): `X` is bits 11..8, `Y` bits 7..4,
`N` bits 3..0, `NN` bits 7..0, `NNN` bits 11..0. -/
def OperandsOf (w : Word) (i : Instr) : Prop :=
  let isX (x : Reg) := x.toNat = w.toNat / 256 % 16
  let isY (y : Reg) := y.toNat = w.toNat / 16 % 16
  let isN (n : Nibble) := n.toNat = w.toNat % 16
  let isNN (nn : Byte) := nn.toNat = w.toNat % 256
  let isNNN (nnn : Addr) := nnn.toNat = w.toNat % 4096
  match i with
  | .nop => True
  | .cls => True
  | .ret => True
  | .jp nnn => isNNN nnn
  | .call nnn => isNNN nnn
  | .seImm x nn => isX x ∧ isNN nn
  | .sneImm x nn => isX x ∧ isNN nn
  | .seReg x y => isX x ∧ isY y
  | .ldImm x nn => isX x ∧ isNN nn
  | .addImm x nn => isX x ∧ isNN nn
  | .ldReg x y => isX x ∧ isY y
  | .orReg x y => isX x ∧ isY y
  | .andReg x y => isX x ∧ isY y
  | .xorReg x y => isX x ∧ isY y
  | .addReg x y => isX x ∧ isY y
  | .subReg x y => isX x ∧ isY y
  | .shr x y => isX x ∧ isY y
  | .subnReg x y => isX x ∧ isY y
  | .shl x y => isX x ∧ isY y
  | .sneReg x y => isX x ∧ isY y
  | .ldI nnn => isNNN nnn
  | .jpV0 nnn => isNNN nnn
  | .rnd x nn => isX x ∧ isNN nn
  | .drw x y n => isX x ∧ isY y ∧ isN n
  | .skp x => isX x
  | .sknp x => isX x
  | .ldVxDt x => isX x
  | .ldVxK x => isX x
  | .ldDtVx x => isX x
  | .ldStVx x => isX x
  | .addI x => isX x
  | .ldF x => isX x
  | .ldB x => isX x
  | .ldMemVx x => isX x
  | .ldVxMem x => isX x

/-! ### Frames -/

/-- The parts of the state a frame speaks about. -/
inductive Part where
  | regs | pc | index | stack | sp | delay | sound | keys | display | memory | phase | fault | font | port
  deriving DecidableEq, Repr

/-- The part is the same in both states. Registers and memory are compared by reading each register and each byte. -/
def Part.Same : Part → State → State → Prop
  | .regs, s, t => ∀ r : Reg, t.readV r = s.readV r
  | .pc, s, t => t.pc = s.pc
  | .index, s, t => t.i = s.i
  | .stack, s, t => t.stack = s.stack
  | .sp, s, t => t.sp = s.sp
  | .delay, s, t => t.dt = s.dt
  | .sound, s, t => t.st = s.st
  | .keys, s, t => t.key = s.key
  | .display, s, t => t.disp = s.disp
  | .memory, s, t => ∀ a : Nat, t.mem.read a = s.mem.read a
  | .phase, s, t => t.phase = s.phase
  | .fault, s, t => t.fault = s.fault
  | .font, s, t => t.font = s.font
  | .port, s, t => t.port = s.port

/-- Every part outside the list is unchanged. -/
def OnlyChanges (parts : List Part) (s t : State) : Prop := ∀ p : Part, p ∉ parts → p.Same s t

/-- Every register outside the list is unchanged. -/
def OnlyRegs (written : List Reg) (s t : State) : Prop := ∀ r : Reg, r ∉ written → t.readV r = s.readV r

/-- Every byte outside the `count` bytes from `base` on is unchanged. -/
def OnlyBytes (base count : Nat) (s t : State) : Prop :=
  ∀ a : Nat, a < base ∨ base + count ≤ a → t.mem.read a = s.mem.read a

/-! ### Encodings, completion, faults -/

/-- The instruction is spelled by this row of the opcode table (30_encoding.md R76), and its word decodes to it. -/
def SpelledBy (mask pattern : Word) (i : Instr) : Prop :=
  (⟨mask, pattern⟩ : OpcodeRow) ∈ opcodeRows ∧ encode i &&& mask = pattern ∧ decodeWord (encode i) = some i

/-- The instruction completes, in a state with the property. -/
def Completes (i : Instr) (s : State) (post : State → Prop) : Prop := ∃ t, exec i s = .next t ∧ post t

/-- The instruction raises the fault (00_scope.md R15, 60_exceptions.md R221): in the next state the core is Halted,
the record holds the reason, the `PC` before the cycle and the instruction's word, `PC` is that value again, the host
sees the reason, and nothing else has changed. -/
def Raises (i : Instr) (reason : FaultReason) (s : State) : Prop :=
  Completes i s fun t =>
    t.phase = .halted ∧ t.fault = some ⟨reason, s.pc - 2, some (encode i)⟩ ∧ t.pc = s.pc - 2 ∧
    t.port = { s.port with response := .faulted reason } ∧ OnlyChanges [.pc, .phase, .fault, .port] s t

/-! ### The sprite of DXYN (41_display.md R101) -/

/-- A set bit of the `n`-row sprite at `I`, drawn from `(x0, y0)` with wraparound, lands on this column and row. -/
def State.SpriteHits (s : State) (x0 y0 n : Nat) (px : Fin 64) (py : Fin 32) : Prop :=
  ∃ r c : Nat, r < n ∧ c < 8 ∧ (s.mem.read (s.i.toNat + r)).getLsbD (7 - c) = true ∧
    (x0 + c) % 64 = px.val ∧ (y0 + r) % 32 = py.val

end Sys2Proof.Machine
end

