-- ==== Sys2Proof/Certificates/Slice0/Obligations.lean ====
section
/-! DEFINITION. The statements for the provers, in the order of OBLIGATIONS.json. An instruction runs in a state whose
`PC` is already advanced by 2 (10_state.md R24), so in the statements about `exec` the instruction stands at
`s.pc - 2`. Where a statement speaks of `port`, it speaks of the model's own host port: what the host sends (log 3), the
random byte (log 4), what a transaction returned (log 7). -/

open Sys2Proof Sys2Proof.Machine

/-! ### Encoding -/

/-- R76, for one word of each family, each written out bit by bit from the row's encoding. -/
def Obligations.SpecWordsDecode : Prop :=
  decodeWord 0b0000000000000000 = some .nop ∧
  decodeWord 0b0000000011101110 = some .ret ∧
  decodeWord 0b0010001100010101 = some (.call 0x315) ∧
  decodeWord 0b0110101010011101 = some (.ldImm 0xA 0x9D) ∧
  decodeWord 0b1000000111100101 = some (.subReg 0x1 0xE) ∧
  decodeWord 0b1011111100000001 = some (.jpV0 0xF01) ∧
  decodeWord 0b1101001101000101 = some (.drw 0x3 0x4 0x5) ∧
  decodeWord 0b1110010110100001 = some (.sknp 0x5) ∧
  decodeWord 0b1111101000110011 = some (.ldB 0xA) ∧
  decodeWord 0b0101000100100001 = none

/-- No bit of an instruction is dropped: its word decodes to it, every operand included (R72, R76). -/
def Obligations.DecodeOfEncodeIsTheInstruction : Prop :=
  ∀ i : Instr, decodeWord (encode i) = some i ∧ decode (encodeBytes i) = .ok (i, [])

/-- No bit of a word is dropped: "every bit of every row is either a fixed opcode bit or an operand bit" (R79). -/
def Obligations.EncodeOfDecodeIsTheWord : Prop :=
  ∀ (w : Word) (i : Instr), decodeWord w = some i → encode i = w

/-- R76: a word decodes exactly if some row's mask and match admit it, and the rows are pairwise disjoint. -/
def Obligations.DecodeAcceptsExactlyTheDisjointRows : Prop :=
  (∀ w : Word, (decodeWord w).isSome = opcodeRows.any (fun r => r.admits w)) ∧
  opcodeRows.Pairwise (fun r q => ∀ w : Word, ¬ (r.admits w = true ∧ q.admits w = true))

/-- R72, for every word: an operand of the decoded instruction is the field of the word that the table of operand
fields names. -/
def Obligations.OperandsAreTheFieldsOfTheWord : Prop :=
  ∀ (w : Word) (i : Instr), decodeWord w = some i → OperandsOf w i

/-- R77: the decoder accepts exactly the words of the opcode map in prose; counted by family, the illegal words are
the numbers R77 gives (R78 adds them up to 21581). -/
def Obligations.DecodeAcceptsExactlyTheOpcodeMap : Prop :=
  (∀ w : Word, (decodeWord w).isSome = wellFormedWord w) ∧
  ∀ d : Fin 16,
    ((List.range 4096).filter (fun n => (decodeWord (BitVec.ofNat 16 (4096 * d.val + n))).isNone)).length =
      ([4093, 0, 0, 0, 0, 3840, 0, 0, 1792, 3840, 0, 0, 0, 0, 4064, 3952] : List Nat)[d.val]

/-! ### The cycle -/

/-- Which transaction a step takes (R40; the queue and the free schedule are the model's: log 3). Written out, the
transactions are taken oldest first; after them, a free host's next one is `Config.hostTransaction`, one further each
time, and the other host's is a CYCLE with an open byte. -/
def Obligations.TheHostsScheduleIsTakenInOrder : Prop :=
  ∀ p : HostPort,
    (∀ x rest, p.inputs = x :: rest → p.next = x ∧ p.taken = { p with inputs := rest }) ∧
    (p.inputs = [] → p.beyond = .free →
      p.next = Config.hostTransaction p.asked ∧ p.taken = { p with asked := p.asked + 1 }) ∧
    (p.inputs = [] → p.beyond = .cycles → p.next = .cycle none ∧ p.taken = p)

/-- A step runs the decoded instruction (R70, R54): in phase Loaded or Running, with the host's next transaction a
CYCLE and the two bytes at `PC` spelling an instruction, the step is that instruction's execution in the state with
`PC` advanced by 2 and the transaction's random byte (given, or left open: log 4) at hand. That state's phase is already
Running, where R70 writes the phase after Execute: the model's order, log 14 (DEDUCED). -/
def Obligations.StepRunsTheFetchedInstruction : Prop :=
  ∀ (s : State) (i : Instr) (r : Option Byte),
    (s.phase = .loaded ∨ s.phase = .running) → s.port.next = .cycle r → s.pc.toNat + 1 ≤ 0xFFF →
    decodeWord (s.mem.read s.pc.toNat ++ s.mem.read (s.pc.toNat + 1)) = some i →
    step s = exec i { s with
      pc := s.pc + 2, phase := .running, port := { s.port.taken with random := r, response := .ok } }

/-- R71: the fetched word is the byte at the lower address in the high half and the next one in the low half, at
every address, odd or even, whose second byte is in memory; a CYCLE whose `PC + 1` is past memory raises
FetchOutOfRange with no opcode in the record, and only the fault's own marks are written. -/
def Obligations.FetchIsBigEndianAndFaultsPastMemory : Prop :=
  (∀ (s : State) (a : Word), a.toNat + 1 ≤ 0xFFF →
    ∃ op, s.fetch16 a = some op ∧
      op.toNat = 256 * (s.mem.read a.toNat).toNat + (s.mem.read (a.toNat + 1)).toNat) ∧
  (∀ s : State,
    (s.phase = .loaded ∨ s.phase = .running) → s.CycleIsNext → 0xFFF < s.pc.toNat + 1 →
    ∃ t, step s = .next t ∧ t.phase = .halted ∧ t.fault = some ⟨.fetchOutOfRange, s.pc, none⟩ ∧
      t.port.response = .faulted .fetchOutOfRange ∧ OnlyChanges [.phase, .fault, .port] s t)

/-- R78, R221: fetching a word that matches no row raises UnimplementedOpcode with the word recorded. -/
def Obligations.IllegalWordFaults : Prop :=
  ∀ (s : State) (w : Word),
    (s.phase = .loaded ∨ s.phase = .running) → s.CycleIsNext → s.pc.toNat + 1 ≤ 0xFFF →
    w = s.mem.read s.pc.toNat ++ s.mem.read (s.pc.toNat + 1) →
    (∀ row ∈ opcodeRows, w &&& row.mask ≠ row.pattern) →
    ∃ t, step s = .next t ∧ t.phase = .halted ∧ t.fault = some ⟨.unimplementedOpcode, s.pc, some w⟩ ∧
      t.port.response = .faulted .unimplementedOpcode ∧ OnlyChanges [.phase, .fault, .port] s t

/-- R41: a transaction has a move exactly in the cells of the table that say yes; after a CYCLE that does not fault the
phase is Running. -/
def Obligations.PhaseTableGivesTheMoves : Prop :=
  ∀ (s : State) (x : Transaction), s.port.next = x →
    ((∃ t, step s = .next t) ↔
      s.phase ≠ .halted ∧ (∀ r, x = .cycle r → s.phase ≠ .constructed) ∧
      (∀ bytes, x = .load bytes → s.phase = .constructed)) ∧
    (∀ r t, x = .cycle r → step s = .next t → t.phase ≠ .halted → t.phase = .running)

/-- Where a transaction has no move the step stops under a name of its own (R41; the names are the model's
choice: log 2). -/
def Obligations.NoMoveStopsByName : Prop :=
  ∀ s : State,
    (s.phase = .halted → step s = .fault .halted) ∧
    (s.phase = .constructed → s.CycleIsNext → step s = .fault .cycleBeforeLoad) ∧
    (∀ bytes, (s.phase = .loaded ∨ s.phase = .running) → s.port.next = .load bytes →
      step s = .fault .loadNotConstructed)

/-! ### The other transactions -/

/-- R260: what RESET leaves, for every value of the FONT parameter. That FONT, the host's remaining schedule and the
count of draws are kept is the model's choice (log 13, DESIGN CHOICE) and not said by R260. -/
def Obligations.ResetEstablishesTheResetState : Prop :=
  ∀ s : State, s.phase ≠ .halted → s.port.next = .reset →
    ∃ t, step s = .next t ∧ t.AtReset s.font ∧
      t.port = { s.port.taken with random := none, response := .idle }

/-- R260, of the state a core with a given FONT and host starts in; the machine's own reset state is the one with the
default FONT (R261; PRESUMED, log 5) and the port of logs 3, 4 and 7. -/
def Obligations.MachineStartsInTheResetState : Prop :=
  (∀ (f : Config.Font) (p : HostPort), (State.resetWith f p).AtReset f ∧ (State.resetWith f p).port = p) ∧
  State.reset = State.resetWith defaultFont HostPort.reset

/-- R7, R38: FONT is a parameter: no step changes it. -/
def Obligations.FontIsFixed : Prop :=
  ∀ s t : State, step s = .next t → t.font = s.font

/-- R264, R265: LOAD has a move in phase Constructed alone; it copies the bytes to 0x200 on, enters Loaded and writes
nothing else; more than 3584 bytes raise LoadTooLarge and nothing is copied. -/
def Obligations.LoadPlacesTheProgram : Prop :=
  ∀ (s : State) (bytes : List Byte), s.port.next = .load bytes →
    (s.phase ≠ .constructed → ∀ t, step s ≠ .next t) ∧
    (s.phase = .constructed → bytes.length ≤ 4096 - 0x200 →
      ∃ t, step s = .next t ∧ (∀ k, k < bytes.length → some (t.mem.read (0x200 + k)) = bytes[k]?) ∧
        OnlyBytes 0x200 bytes.length s t ∧ t.phase = .loaded ∧
        t.port = { s.port.taken with response := .ok } ∧ OnlyChanges [.memory, .phase, .port] s t) ∧
    (s.phase = .constructed → 4096 - 0x200 < bytes.length →
      ∃ t, step s = .next t ∧ t.phase = .halted ∧ t.fault = some ⟨.loadTooLarge, s.pc, none⟩ ∧
        t.port.response = .faulted .loadTooLarge ∧ OnlyChanges [.phase, .fault, .port] s t)

/-- R232: TICK counts both timers down to 0, never below, and returns a beep exactly when `ST` was 1 (R233); it has a
move in every phase but Halted. -/
def Obligations.TickCountsDownAndBeeps : Prop :=
  ∀ s : State, s.port.next = .tick →
    (s.phase = .halted → ∀ t, step s ≠ .next t) ∧
    (s.phase ≠ .halted → ∃ t, step s = .next t ∧
      t.dt.toNat = s.dt.toNat - 1 ∧ t.st.toNat = s.st.toNat - 1 ∧
      t.port = { s.port.taken with response := .beep (decide (s.st.toNat = 1)) } ∧
      OnlyChanges [.delay, .sound, .port] s t)

/-- R235: SETKEY writes the one key and nothing else. -/
def Obligations.SetKeyWritesOneKey : Prop :=
  ∀ (s : State) (k : Nibble) (pressed : Bool), s.phase ≠ .halted → s.port.next = .setKey k pressed →
    ∃ t, step s = .next t ∧
      (∀ j : Fin 16, t.key[j] = if j.val = k.toNat then pressed else s.key[j]) ∧
      t.port = { s.port.taken with response := .idle } ∧ OnlyChanges [.keys, .port] s t

/-- R237: GETDISPLAY returns the pixels and writes no state. -/
def Obligations.GetDisplayReturnsThePixels : Prop :=
  ∀ s : State, s.phase ≠ .halted → s.port.next = .getDisplay →
    ∃ t d, step s = .next t ∧ t.port = { s.port.taken with response := .pixels d } ∧
      (∀ idx : Fin 2048, Display.at d idx = Display.at s.disp idx) ∧ OnlyChanges [.port] s t

/-! ### Display instructions -/

/-- R100: CLS clears every pixel and writes nothing else. -/
def Obligations.ClsClearsEveryPixel : Prop :=
  SpelledBy 0xFFFF 0x00E0 .cls ∧
  ∀ s : State, Completes .cls s fun t =>
    (∀ idx : Fin 2048, Display.at t.disp idx = false) ∧ OnlyChanges [.display] s t

/-- R101: DXYN flips exactly the pixels the sprite's set bits land on, with wraparound, and writes the collision to
VF, coordinates being read first; past memory it raises before any write. `N = 0` is the first case for every `I`. -/
def Obligations.DrwXorsTheSpriteAndSetsVf : Prop :=
  ∀ (x y : Reg) (n : Nibble), SpelledBy 0xF000 0xD000 (.drw x y n) ∧
    ∀ s : State,
      (n = 0 ∨ s.i.toNat + n.toNat - 1 ≤ 0xFFF →
        Completes (.drw x y n) s fun t =>
          (∀ (px : Fin 64) (py : Fin 32),
            let hit := s.SpriteHits (s.readV x).toNat (s.readV y).toNat n.toNat px py
            (hit → Display.pixel t.disp px py = !Display.pixel s.disp px py) ∧
            (¬ hit → Display.pixel t.disp px py = Display.pixel s.disp px py)) ∧
          ((∃ px py, s.SpriteHits (s.readV x).toNat (s.readV y).toNat n.toNat px py ∧
              Display.pixel s.disp px py = true) → t.readV VF = 1) ∧
          ((¬ ∃ px py, s.SpriteHits (s.readV x).toNat (s.readV y).toNat n.toNat px py ∧
              Display.pixel s.disp px py = true) → t.readV VF = 0) ∧
          OnlyRegs [VF] s t ∧ OnlyChanges [.display, .regs] s t) ∧
      (1 ≤ n.toNat → 0xFFF < s.i.toNat + n.toNat - 1 → Raises (.drw x y n) .memoryOutOfRange s)

/-- R102: a second draw of the same sprite at the same place, from a state with the display the first left and the
same coordinates, `I` and sprite bytes, restores the display, and writes VF = 1 exactly if the first set a pixel.
(What becomes of a coordinate that the first draw's VF write changed is not stated: log 18.) -/
def Obligations.DrwTwiceRestoresTheDisplay : Prop :=
  ∀ (x y : Reg) (n : Nibble) (s t u : State),
    (n = 0 ∨ s.i.toNat + n.toNat - 1 ≤ 0xFFF) → exec (.drw x y n) s = .next t →
    u.disp = t.disp → u.readV x = s.readV x → u.readV y = s.readV y → u.i = s.i →
    (∀ r, r < n.toNat → u.mem.read (s.i.toNat + r) = s.mem.read (s.i.toNat + r)) →
    Completes (.drw x y n) u fun w =>
      w.disp = s.disp ∧
      ((∃ px py, Display.pixel s.disp px py = false ∧ Display.pixel t.disp px py = true) → w.readV VF = 1) ∧
      ((¬ ∃ px py, Display.pixel s.disp px py = false ∧ Display.pixel t.disp px py = true) → w.readV VF = 0)

/-! ### Control flow -/

/-- R120: NOP changes nothing (the fetch's advance of `PC` is the step's). -/
def Obligations.NopChangesNothing : Prop :=
  SpelledBy 0xFFFF 0x0000 .nop ∧ ∀ s : State, exec .nop s = .next s

/-- R122: JP writes `NNN` to `PC`. -/
def Obligations.JpSetsPc : Prop :=
  ∀ nnn : Addr, SpelledBy 0xF000 0x1000 (.jp nnn) ∧
    ∀ s : State, Completes (.jp nnn) s fun t => t.pc.toNat = nnn.toNat ∧ OnlyChanges [.pc] s t

/-- R131: JP V0 writes `V0 + NNN`, always `V0` and not masked to 12 bits. -/
def Obligations.JpV0AddsV0 : Prop :=
  ∀ nnn : Addr, SpelledBy 0xF000 0xB000 (.jpV0 nnn) ∧
    ∀ s : State, Completes (.jpV0 nnn) s fun t =>
      t.pc.toNat = (s.readV 0).toNat + nnn.toNat ∧ OnlyChanges [.pc] s t

/-- R123: CALL pushes the advanced `PC` and jumps; a full stack raises StackOverflow. -/
def Obligations.CallPushesTheReturnAddress : Prop :=
  ∀ nnn : Addr, SpelledBy 0xF000 0x2000 (.call nnn) ∧
    ∀ s : State,
      (s.sp.val < 16 → Completes (.call nnn) s fun t =>
        (∀ k : Fin 16, t.stack[k] = if k.val = s.sp.val then s.pc else s.stack[k]) ∧
        t.sp.val = s.sp.val + 1 ∧ t.pc.toNat = nnn.toNat ∧ OnlyChanges [.stack, .sp, .pc] s t) ∧
      (s.sp.val = 16 → Raises (.call nnn) .stackOverflow s)

/-- R121: RET pops into `PC` and keeps the entry; an empty stack raises StackUnderflow. -/
def Obligations.RetPopsTheReturnAddress : Prop :=
  SpelledBy 0xFFFF 0x00EE .ret ∧
    ∀ s : State,
      (∀ k : Fin 16, s.sp.val = k.val + 1 → Completes .ret s fun t =>
        t.sp.val = k.val ∧ t.pc = s.stack[k] ∧ OnlyChanges [.sp, .pc] s t) ∧
      (s.sp.val = 0 → Raises .ret .stackUnderflow s)

/-- R124: a call at `a` and its return round-trip, whatever the subroutine does beside `SP` and its stack entry. -/
def Obligations.CallAndReturnRoundTrip : Prop :=
  ∀ (nnn : Addr) (a : Word) (k : Fin 16) (s : State), s.pc = a + 2 → s.sp.val = k.val →
    Completes (.call nnn) s fun t =>
      ∀ u : State, u.sp = t.sp → u.stack[k] = t.stack[k] →
        Completes .ret u fun w => w.pc = a + 2 ∧ w.sp = s.sp

/-- R127, R128: SE and SNE with an immediate; the skip adds 2 to the advanced `PC` (R126). -/
def Obligations.SkipsOnAnImmediate : Prop :=
  ∀ (x : Reg) (nn : Byte),
    SpelledBy 0xF000 0x3000 (.seImm x nn) ∧ SpelledBy 0xF000 0x4000 (.sneImm x nn) ∧
    ∀ s : State,
      (Completes (.seImm x nn) s fun t =>
        (s.readV x = nn → t.pc = s.pc + 2) ∧ (s.readV x ≠ nn → t.pc = s.pc) ∧ OnlyChanges [.pc] s t) ∧
      (Completes (.sneImm x nn) s fun t =>
        (s.readV x ≠ nn → t.pc = s.pc + 2) ∧ (s.readV x = nn → t.pc = s.pc) ∧ OnlyChanges [.pc] s t)

/-- R129, R130: SE and SNE on two registers. -/
def Obligations.SkipsOnTwoRegisters : Prop :=
  ∀ x y : Reg,
    SpelledBy 0xF00F 0x5000 (.seReg x y) ∧ SpelledBy 0xF00F 0x9000 (.sneReg x y) ∧
    ∀ s : State,
      (Completes (.seReg x y) s fun t =>
        (s.readV x = s.readV y → t.pc = s.pc + 2) ∧ (s.readV x ≠ s.readV y → t.pc = s.pc) ∧
        OnlyChanges [.pc] s t) ∧
      (Completes (.sneReg x y) s fun t =>
        (s.readV x ≠ s.readV y → t.pc = s.pc + 2) ∧ (s.readV x = s.readV y → t.pc = s.pc) ∧
        OnlyChanges [.pc] s t)

/-! ### Registers and arithmetic -/

/-- R150, R151: the immediate forms; the addition wraps and writes no flag. -/
def Obligations.ImmediatesWriteVx : Prop :=
  ∀ (x : Reg) (nn : Byte),
    SpelledBy 0xF000 0x6000 (.ldImm x nn) ∧ SpelledBy 0xF000 0x7000 (.addImm x nn) ∧
    ∀ s : State,
      (Completes (.ldImm x nn) s fun t => t.readV x = nn ∧ OnlyRegs [x] s t ∧ OnlyChanges [.regs] s t) ∧
      (Completes (.addImm x nn) s fun t =>
        (t.readV x).toNat = ((s.readV x).toNat + nn.toNat) % 256 ∧ OnlyRegs [x] s t ∧ OnlyChanges [.regs] s t)

/-- R152 to R155: copy, or, and, exclusive or, bit by bit; no flag. -/
def Obligations.CopyAndLogicWriteVx : Prop :=
  ∀ x y : Reg,
    SpelledBy 0xF00F 0x8000 (.ldReg x y) ∧ SpelledBy 0xF00F 0x8001 (.orReg x y) ∧
    SpelledBy 0xF00F 0x8002 (.andReg x y) ∧ SpelledBy 0xF00F 0x8003 (.xorReg x y) ∧
    ∀ s : State,
      (Completes (.ldReg x y) s fun t => t.readV x = s.readV y ∧ OnlyRegs [x] s t ∧ OnlyChanges [.regs] s t) ∧
      (Completes (.orReg x y) s fun t =>
        (∀ b : Nat, (t.readV x).getLsbD b = ((s.readV x).getLsbD b || (s.readV y).getLsbD b)) ∧
        OnlyRegs [x] s t ∧ OnlyChanges [.regs] s t) ∧
      (Completes (.andReg x y) s fun t =>
        (∀ b : Nat, (t.readV x).getLsbD b = ((s.readV x).getLsbD b && (s.readV y).getLsbD b)) ∧
        OnlyRegs [x] s t ∧ OnlyChanges [.regs] s t) ∧
      (Completes (.xorReg x y) s fun t =>
        (∀ b : Nat, (t.readV x).getLsbD b = ((s.readV x).getLsbD b ^^ (s.readV y).getLsbD b)) ∧
        OnlyRegs [x] s t ∧ OnlyChanges [.regs] s t)

/-- R156: the sum mod 256, and the carry to VF last (so VF is the carry when `X = 15`). -/
def Obligations.AddWritesSumThenCarry : Prop :=
  ∀ x y : Reg, SpelledBy 0xF00F 0x8004 (.addReg x y) ∧
    ∀ s : State, Completes (.addReg x y) s fun t =>
      (x ≠ VF → (t.readV x).toNat = ((s.readV x).toNat + (s.readV y).toNat) % 256) ∧
      (255 < (s.readV x).toNat + (s.readV y).toNat → t.readV VF = 1) ∧
      ((s.readV x).toNat + (s.readV y).toNat ≤ 255 → t.readV VF = 0) ∧
      OnlyRegs [x, VF] s t ∧ OnlyChanges [.regs] s t

/-- R157, R159: the differences mod 256, and the not-borrow to VF last. -/
def Obligations.SubAndSubnWriteDifferenceThenNoBorrow : Prop :=
  ∀ x y : Reg,
    SpelledBy 0xF00F 0x8005 (.subReg x y) ∧ SpelledBy 0xF00F 0x8007 (.subnReg x y) ∧
    ∀ s : State,
      (Completes (.subReg x y) s fun t =>
        (x ≠ VF → ((t.readV x).toNat : Int) = (((s.readV x).toNat : Int) - (s.readV y).toNat) % 256) ∧
        ((s.readV y).toNat ≤ (s.readV x).toNat → t.readV VF = 1) ∧
        ((s.readV x).toNat < (s.readV y).toNat → t.readV VF = 0) ∧
        OnlyRegs [x, VF] s t ∧ OnlyChanges [.regs] s t) ∧
      (Completes (.subnReg x y) s fun t =>
        (x ≠ VF → ((t.readV x).toNat : Int) = (((s.readV y).toNat : Int) - (s.readV x).toNat) % 256) ∧
        ((s.readV x).toNat ≤ (s.readV y).toNat → t.readV VF = 1) ∧
        ((s.readV y).toNat < (s.readV x).toNat → t.readV VF = 0) ∧
        OnlyRegs [x, VF] s t ∧ OnlyChanges [.regs] s t)

/-- R158, R160, R163: the shifts, with the bit shifted out in VF; for `X = 15` the shift reads the bit just written;
`Y` does not matter. -/
def Obligations.ShiftsWriteTheBitShiftedOut : Prop :=
  ∀ x y : Reg,
    SpelledBy 0xF00F 0x8006 (.shr x y) ∧ SpelledBy 0xF00F 0x800E (.shl x y) ∧
    ∀ s : State,
      (∀ y' : Reg, exec (.shr x y') s = exec (.shr x y) s ∧ exec (.shl x y') s = exec (.shl x y) s) ∧
      (Completes (.shr x y) s fun t =>
        (x ≠ VF → (t.readV x).toNat = (s.readV x).toNat / 2 ∧ (t.readV VF).toNat = (s.readV x).toNat % 2) ∧
        (x = VF → t.readV VF = 0) ∧ OnlyRegs [x, VF] s t ∧ OnlyChanges [.regs] s t) ∧
      (Completes (.shl x y) s fun t =>
        (x ≠ VF → (t.readV x).toNat = (s.readV x).toNat * 2 % 256 ∧
          (t.readV VF).toNat = (s.readV x).toNat / 128) ∧
        (x = VF → (t.readV VF).toNat = 2 * ((s.readV VF).toNat / 128)) ∧
        OnlyRegs [x, VF] s t ∧ OnlyChanges [.regs] s t)

/-- R162: VF as the destination. -/
def Obligations.VfAsDestination : Prop :=
  ∀ (y : Reg) (nn : Byte) (s : State),
    (Completes (.addReg VF y) s fun t =>
      (t.readV VF).toNat = if 255 < (s.readV VF).toNat + (s.readV y).toNat then 1 else 0) ∧
    (Completes (.subReg VF y) s fun t =>
      (t.readV VF).toNat = if (s.readV y).toNat ≤ (s.readV VF).toNat then 1 else 0) ∧
    (Completes (.shr VF y) s fun t => (t.readV VF).toNat = 0) ∧
    (Completes (.subnReg VF y) s fun t =>
      (t.readV VF).toNat = if (s.readV VF).toNat ≤ (s.readV y).toNat then 1 else 0) ∧
    (Completes (.shl VF y) s fun t => t.readV VF = if (s.readV VF).getLsbD 7 then 0x02 else 0x00) ∧
    (Completes (.ldReg VF y) s fun t => t.readV VF = s.readV y) ∧
    (Completes (.orReg VF y) s fun t => t.readV VF = s.readV VF ||| s.readV y) ∧
    (Completes (.andReg VF y) s fun t => t.readV VF = s.readV VF &&& s.readV y) ∧
    (Completes (.xorReg VF y) s fun t => t.readV VF = s.readV VF ^^^ s.readV y) ∧
    (Completes (.ldImm VF nn) s fun t => t.readV VF = nn) ∧
    (Completes (.addImm VF nn) s fun t => t.readV VF = s.readV VF + nn) ∧
    (Completes (.rnd VF nn) s fun t => ∀ r : Byte, s.port.random = some r → t.readV VF = r &&& nn)

/-- R165: the host's byte masked by `NN`, for every byte; where the host gives none, an open byte (log 4), of which
only the mask is known. The draw is used up. -/
def Obligations.RndMasksTheDrawnByte : Prop :=
  ∀ (x : Reg) (nn : Byte), SpelledBy 0xF000 0xC000 (.rnd x nn) ∧
    ∀ s : State, Completes (.rnd x nn) s fun t =>
      (∀ r : Byte, s.port.random = some r → t.readV x = r &&& nn) ∧
      (∀ b : Nat, nn.getLsbD b = false → (t.readV x).getLsbD b = false) ∧
      t.port = { s.port with random := none, draws := s.port.draws + 1 } ∧
      OnlyRegs [x] s t ∧ OnlyChanges [.regs, .port] s t

/-! ### Index register and memory -/

/-- R180, R181, R182: the three writes of `I`: `NNN`; `I + VX` mod 2^16, no flag; `5 * VX`, no mask. -/
def Obligations.IndexRegisterWrites : Prop :=
  ∀ (nnn : Addr) (x : Reg),
    SpelledBy 0xF000 0xA000 (.ldI nnn) ∧ SpelledBy 0xF0FF 0xF01E (.addI x) ∧ SpelledBy 0xF0FF 0xF029 (.ldF x) ∧
    ∀ s : State,
      (Completes (.ldI nnn) s fun t => t.i.toNat = nnn.toNat ∧ OnlyChanges [.index] s t) ∧
      (Completes (.addI x) s fun t =>
        t.i.toNat = (s.i.toNat + (s.readV x).toNat) % 2 ^ 16 ∧ OnlyChanges [.index] s t) ∧
      (Completes (.ldF x) s fun t => t.i.toNat = 0x000 + 5 * (s.readV x).toNat ∧ OnlyChanges [.index] s t)

/-- R183: the three decimal digits of `VX` at `I`, `I + 1`, `I + 2`, or MemoryOutOfRange with no byte written. -/
def Obligations.BcdStoresThreeDigits : Prop :=
  ∀ x : Reg, SpelledBy 0xF0FF 0xF033 (.ldB x) ∧
    ∀ s : State,
      (s.dataAddr 2 ≤ 0xFFF → Completes (.ldB x) s fun t =>
        (t.mem.read (s.dataAddr 0)).toNat = (s.readV x).toNat / 100 ∧
        (t.mem.read (s.dataAddr 1)).toNat = (s.readV x).toNat / 10 % 10 ∧
        (t.mem.read (s.dataAddr 2)).toNat = (s.readV x).toNat % 10 ∧
        OnlyBytes (s.dataAddr 0) 3 s t ∧ OnlyChanges [.memory] s t) ∧
      (0xFFF < s.dataAddr 2 → Raises (.ldB x) .memoryOutOfRange s)

/-- R184: V0 to VX stored at `I` on, `I` unchanged, or MemoryOutOfRange with no byte written. -/
def Obligations.RegisterStoreWritesV0ToVx : Prop :=
  ∀ x : Reg, SpelledBy 0xF0FF 0xF055 (.ldMemVx x) ∧
    ∀ s : State,
      (s.dataAddr x.toNat ≤ 0xFFF → Completes (.ldMemVx x) s fun t =>
        (∀ k : Reg, k.toNat ≤ x.toNat → t.mem.read (s.dataAddr k.toNat) = s.readV k) ∧
        OnlyBytes (s.dataAddr 0) (x.toNat + 1) s t ∧ OnlyChanges [.memory] s t) ∧
      (0xFFF < s.dataAddr x.toNat → Raises (.ldMemVx x) .memoryOutOfRange s)

/-- R185: V0 to VX loaded from `I` on, `I` and memory unchanged, or MemoryOutOfRange with no register written. -/
def Obligations.RegisterLoadReadsV0ToVx : Prop :=
  ∀ x : Reg, SpelledBy 0xF0FF 0xF065 (.ldVxMem x) ∧
    ∀ s : State,
      (s.dataAddr x.toNat ≤ 0xFFF → Completes (.ldVxMem x) s fun t =>
        (∀ k : Reg, k.toNat ≤ x.toNat → t.readV k = s.mem.read (s.dataAddr k.toNat)) ∧
        (∀ k : Reg, x.toNat < k.toNat → t.readV k = s.readV k) ∧ OnlyChanges [.regs] s t) ∧
      (0xFFF < s.dataAddr x.toNat → Raises (.ldVxMem x) .memoryOutOfRange s)

/-- R56: the four instructions that access data fault whenever an accessed address is past memory, on exact sums; DXY0
accesses none and faults for no `I`. -/
def Obligations.AccessPastMemoryFaults : Prop :=
  ∀ (x y : Reg) (n : Nibble) (s : State),
    ((∃ k, k < n.toNat ∧ 0x1000 ≤ s.i.toNat + k) → Raises (.drw x y n) .memoryOutOfRange s) ∧
    ((∃ k, k < 3 ∧ 0x1000 ≤ s.i.toNat + k) → Raises (.ldB x) .memoryOutOfRange s) ∧
    ((∃ k, k < x.toNat + 1 ∧ 0x1000 ≤ s.i.toNat + k) → Raises (.ldMemVx x) .memoryOutOfRange s) ∧
    ((∃ k, k < x.toNat + 1 ∧ 0x1000 ≤ s.i.toNat + k) → Raises (.ldVxMem x) .memoryOutOfRange s) ∧
    (Completes (.drw x y 0) s fun t => t.fault = s.fault ∧ t.phase = s.phase ∧ t.disp = s.disp ∧ t.readV VF = 0)

/-- R63: the bytes FX33 and FX55 store are the bytes the next fetch of their addresses reads. -/
def Obligations.StoredBytesAreFetchedNext : Prop :=
  ∀ (x : Reg) (s : State),
    (s.dataAddr x.toNat ≤ 0xFFF → Completes (.ldMemVx x) s fun t =>
      ∀ (k j : Reg) (a : Word), j.toNat = k.toNat + 1 → j.toNat ≤ x.toNat → a.toNat = s.dataAddr k.toNat →
        t.fetch16 a = some (s.readV k ++ s.readV j)) ∧
    (s.dataAddr 2 ≤ 0xFFF → Completes (.ldB x) s fun t =>
      ∀ a : Word,
        (a.toNat = s.dataAddr 0 → ∃ op, t.fetch16 a = some op ∧
          op.toNat = 256 * ((s.readV x).toNat / 100) + (s.readV x).toNat / 10 % 10) ∧
        (a.toNat = s.dataAddr 1 → ∃ op, t.fetch16 a = some op ∧
          op.toNat = 256 * ((s.readV x).toNat / 10 % 10) + (s.readV x).toNat % 10))

/-! ### Keys and timers -/

/-- R200 to R202: the key skips on the level of the key `VX` names; a value above 15 raises KeyIndexOutOfRange. -/
def Obligations.KeySkips : Prop :=
  ∀ x : Reg,
    SpelledBy 0xF0FF 0xE09E (.skp x) ∧ SpelledBy 0xF0FF 0xE0A1 (.sknp x) ∧
    ∀ s : State,
      (∀ k : Fin 16, (s.readV x).toNat = k.val →
        (Completes (.skp x) s fun t =>
          (s.key[k] = true → t.pc = s.pc + 2) ∧ (s.key[k] = false → t.pc = s.pc) ∧ OnlyChanges [.pc] s t) ∧
        (Completes (.sknp x) s fun t =>
          (s.key[k] = false → t.pc = s.pc + 2) ∧ (s.key[k] = true → t.pc = s.pc) ∧ OnlyChanges [.pc] s t)) ∧
      (15 < (s.readV x).toNat →
        Raises (.skp x) .keyIndexOutOfRange s ∧ Raises (.sknp x) .keyIndexOutOfRange s)

/-- R203, R205, R206: the timer moves. -/
def Obligations.TimerMoves : Prop :=
  ∀ x : Reg,
    SpelledBy 0xF0FF 0xF007 (.ldVxDt x) ∧ SpelledBy 0xF0FF 0xF015 (.ldDtVx x) ∧
    SpelledBy 0xF0FF 0xF018 (.ldStVx x) ∧
    ∀ s : State,
      (Completes (.ldVxDt x) s fun t => t.readV x = s.dt ∧ OnlyRegs [x] s t ∧ OnlyChanges [.regs] s t) ∧
      (Completes (.ldDtVx x) s fun t => t.dt = s.readV x ∧ OnlyChanges [.delay] s t) ∧
      (Completes (.ldStVx x) s fun t => t.st = s.readV x ∧ OnlyChanges [.sound] s t)

/-- R204: FX0A loads the least pressed key, or rewinds `PC` by 2 and changes nothing else. -/
def Obligations.KeyWaitLoadsTheLeastKeyOrRewinds : Prop :=
  ∀ x : Reg, SpelledBy 0xF0FF 0xF00A (.ldVxK x) ∧
    ∀ s : State,
      (∀ k : Fin 16, s.key[k] = true → (∀ j : Fin 16, j.val < k.val → s.key[j] = false) →
        Completes (.ldVxK x) s fun t =>
          (t.readV x).toNat = k.val ∧ OnlyRegs [x] s t ∧ OnlyChanges [.regs] s t) ∧
      ((∀ k : Fin 16, s.key[k] = false) →
        Completes (.ldVxK x) s fun t => t.pc = s.pc - 2 ∧ OnlyChanges [.pc] s t)

/-! ### The whole machine -/

/-- No instruction's execution stops the model: each answers a next state in every state. (The model's: a fault of the
spec is a next state, log 1.) -/
def Obligations.EveryInstructionAnswersANextState : Prop :=
  ∀ (i : Instr) (s : State), ∃ t, exec i s = .next t

/-- R220, R221: each row of the table of faults halts the core with its record (the reason, `PC` before the transaction,
the fetched word where one was fetched), nothing else halts it ("No other condition faults"), and the codes are 1 to 7
in the table's order. -/
def Obligations.FaultsComeExactlyFromTheirConditions : Prop :=
  (∀ s t : State, step s = .next t →
    (∀ reason opcode, s.FaultDue reason opcode → t.phase = .halted ∧ t.fault = some ⟨reason, s.pc, opcode⟩) ∧
    (t.phase = .halted → ∃ reason opcode, s.FaultDue reason opcode ∧ t.fault = some ⟨reason, s.pc, opcode⟩)) ∧
  ([.loadTooLarge, .unimplementedOpcode, .fetchOutOfRange, .memoryOutOfRange, .stackOverflow, .stackUnderflow,
    .keyIndexOutOfRange] : List FaultReason).map FaultReason.code = [1, 2, 3, 4, 5, 6, 7]

/-- R222: a transaction that faults (the host sees a fault's reason, or the core is Halted after it) leaves the core
Halted with that reason on record and commits no write: beside the phase, the record and the host's port, the state is
the one before it. Nothing moves after it. -/
def Obligations.FaultingTransactionCommitsNothing : Prop :=
  ∀ s t : State, step s = .next t → (t.phase = .halted ∨ ∃ reason, t.port.response = .faulted reason) →
    t.phase = .halted ∧
    (∃ rec, t.fault = some rec ∧ rec.pc = s.pc ∧ t.port.response = .faulted rec.reason) ∧
    OnlyChanges [.phase, .fault, .port] s t ∧ ∀ u, step t ≠ .next u

/-- R103: over a whole step, the display changes only by RESET, or by a CYCLE that runs CLS or DXYN. -/
def Obligations.OnlyClsAndDrwWriteTheDisplay : Prop :=
  ∀ s t : State, step s = .next t → t.disp ≠ s.disp →
    s.port.next = .reset ∨
    ∃ w, s.CycleFetches w ∧ (decodeWord w = some .cls ∨ ∃ x y n, decodeWord w = some (.drw x y n))

/-- R51: memory is written by FX33 and FX55, at `I + k`, and by no other instruction. -/
def Obligations.OnlyBcdAndRegisterStoreWriteMemory : Prop :=
  ∀ (i : Instr) (s t : State) (a : Nat), exec i s = .next t → t.mem.read a ≠ s.mem.read a →
    (∃ x, i = .ldB x ∧ s.i.toNat ≤ a ∧ a ≤ s.i.toNat + 2) ∨
    (∃ x, i = .ldMemVx x ∧ s.i.toNat ≤ a ∧ a ≤ s.i.toNat + x.toNat)

/-- R28, R32: no instruction writes a key; only CALL writes a stack entry, and only the next free one. -/
def Obligations.KeysAndStackAreWrittenOnlyByTheirWriters : Prop :=
  ∀ (i : Instr) (s t : State), exec i s = .next t →
    t.key = s.key ∧
    ∀ k : Fin 16, t.stack[k] ≠ s.stack[k] → (∃ nnn, i = .call nnn) ∧ k.val = s.sp.val

/-- R27, R231: only ANNN, FX1E and FX29 write `I`; only FX15 writes `DT`, only FX18 `ST`; no instruction decrements
a timer. -/
def Obligations.IndexAndTimersAreWrittenOnlyByTheirWriters : Prop :=
  ∀ (i : Instr) (s t : State), exec i s = .next t →
    (t.i ≠ s.i → (∃ nnn, i = .ldI nnn) ∨ (∃ x, i = .addI x) ∨ ∃ x, i = .ldF x) ∧
    (t.dt ≠ s.dt → ∃ x, i = .ldDtVx x) ∧ (t.st ≠ s.st → ∃ x, i = .ldStVx x)

/-- R22: besides an instruction whose destination is VF itself, only 8XY4 to 8XY7, 8XYE and DXYN write VF. -/
def Obligations.VfIsWrittenOnlyAsFlagOrDestination : Prop :=
  ∀ (i : Instr) (s t : State), exec i s = .next t → t.readV VF ≠ s.readV VF →
    (∃ x y, i = .addReg x y ∨ i = .subReg x y ∨ i = .shr x y ∨ i = .subnReg x y ∨ i = .shl x y) ∨
    (∃ x y n, i = .drw x y n) ∨
    (∃ nn, i = .ldImm VF nn ∨ i = .addImm VF nn ∨ i = .rnd VF nn) ∨
    (∃ y, i = .ldReg VF y ∨ i = .orReg VF y ∨ i = .andReg VF y ∨ i = .xorReg VF y) ∨
    i = .ldVxDt VF ∨ i = .ldVxK VF ∨ i = .ldVxMem VF

/-- R25: only 1NNN, 2NNN, BNNN and 00EE can change the parity of `PC`. -/
def Obligations.OnlyTransfersChangeTheParityOfPc : Prop :=
  ∀ (i : Instr) (s t : State), exec i s = .next t → t.pc.toNat % 2 ≠ s.pc.toNat % 2 →
    (∃ nnn, i = .jp nnn) ∨ (∃ nnn, i = .call nnn) ∨ (∃ nnn, i = .jpV0 nnn) ∨ i = .ret

/-- R31, R32, R231: over a whole step, a key changes only by SETKEY or RESET; a timer changes only by TICK, which takes
1 from it, by RESET, or by a CYCLE that runs the instruction that sets it. -/
def Obligations.KeysAndTimersAcrossAStep : Prop :=
  ∀ s t : State, step s = .next t →
    (t.key ≠ s.key → s.port.next = .reset ∨ ∃ k b, s.port.next = .setKey k b) ∧
    (t.dt ≠ s.dt →
      (s.port.next = .tick ∧ t.dt.toNat + 1 = s.dt.toNat) ∨ s.port.next = .reset ∨
      ∃ w x, s.CycleFetches w ∧ decodeWord w = some (.ldDtVx x) ∧ t.dt = s.readV x) ∧
    (t.st ≠ s.st →
      (s.port.next = .tick ∧ t.st.toNat + 1 = s.st.toNat) ∨ s.port.next = .reset ∨
      ∃ w x, s.CycleFetches w ∧ decodeWord w = some (.ldStVx x) ∧ t.st = s.readV x)

/-- Every step keeps memory canonical and the fault record coherent with the phase (R37; the canonical form is the
model's own, log 6). -/
def Obligations.StepKeepsTheInvariant : Prop :=
  ∀ s t : State, s.Inv → step s = .next t → t.Inv

/-- R26: every step keeps `PC` at most 0x10FE and every stack entry at most 0x1000. -/
def Obligations.StepKeepsPcBounded : Prop :=
  ∀ s t : State, s.PcBounded → step s = .next t → t.PcBounded

/-- Both invariants hold at reset, memory's canonical form, which is the model's own (log 6, DEDUCED), among them. -/
def Obligations.ResetMeetsTheInvariants : Prop :=
  State.reset.Inv ∧ State.reset.PcBounded ∧ State.reset.Unfaulted
end

