-- ==== Sys2Proof/Laws/Display.lean ====
section
/-! SUPPORT. What the drawing operations do to one pixel and to the collision. -/

namespace Sys2Proof.Machine

@[simp] theorem pixel_clear (x : Fin 64) (y : Fin 32) : Display.pixel Display.clear x y = false := by
  simp [Display.pixel, Display.clear]

/-- The one-bit mask of a column. -/
theorem columnMask_getLsbD (x px : Fin 64) : (1#64 <<< x.val).getLsbD px.val = decide (x = px) := by
  by_cases hx : x = px
  · subst hx; simp
  · have hne : x.val ≠ px.val := fun e => hx (Fin.ext e)
    simp only [BitVec.getLsbD_shiftLeft, hx, decide_false]
    simp
    omega

/-- A flip changes its own pixel and no other. -/
theorem pixel_flip (d : Display) (x px : Fin 64) (y py : Fin 32) :
    Display.pixel (Display.flip d x y) px py = (Display.pixel d px py ^^ decide (x = px ∧ y = py)) := by
  by_cases hy : y = py
  · subst hy
    have e : (Display.flip d x y)[y] = d[y] ^^^ (1#64 <<< x.val) := by simp [Display.flip]
    simp only [Display.pixel, e, BitVec.getLsbD_xor, columnMask_getLsbD, and_true]
  · have hne : y.val ≠ py.val := fun e => hy (Fin.ext e)
    simp [Display.pixel, Display.flip, hy, hne]

/-- Two displays with the same pixels are the same. -/
theorem display_ext {d e : Display} (h : ∀ px py, Display.pixel d px py = Display.pixel e px py) : d = e := by
  apply Vector.ext
  intro y hy
  apply BitVec.eq_of_getLsbD_eq
  intro x hx
  exact h ⟨x, hx⟩ ⟨y, hy⟩

/-- `Disp[idx]` runs through every pixel. -/
theorem at_eq_pixel (d : Display) (px : Fin 64) (py : Fin 32) :
    Display.at d ⟨px.val + 64 * py.val, by omega⟩ = Display.pixel d px py := by
  unfold Display.at
  congr 1
  · ext; simp
  · ext; simp; omega

/-! ### One row -/

/-- The first `m` columns of `drawRow`. -/
def drawCols (x0 y : Nat) (bits : Byte) (m : Nat) (c : Display × Bool) : Display × Bool :=
  (List.range m).foldl
    (fun c k => if bits.getLsbD (7 - k) then drawPixel (Fin.ofNat 64 (x0 + k)) (Fin.ofNat 32 y) c else c) c

/-- Does one of the first `m` columns of the row set this pixel? -/
def rowHit (x0 y : Nat) (bits : Byte) (m : Nat) (px : Fin 64) (py : Fin 32) : Prop :=
  ∃ k, k < m ∧ bits.getLsbD (7 - k) = true ∧ (x0 + k) % 64 = px.val ∧ y % 32 = py.val

theorem drawCols_succ (x0 y : Nat) (bits : Byte) (m : Nat) (c : Display × Bool) :
    drawCols x0 y bits (m + 1) c =
      if bits.getLsbD (7 - m) then
        drawPixel (Fin.ofNat 64 (x0 + m)) (Fin.ofNat 32 y) (drawCols x0 y bits m c)
      else drawCols x0 y bits m c := by
  simp [drawCols, List.range_succ]

theorem rowHit_succ (x0 y : Nat) (bits : Byte) (m : Nat) (px : Fin 64) (py : Fin 32) :
    rowHit x0 y bits (m + 1) px py ↔
      rowHit x0 y bits m px py ∨
        (bits.getLsbD (7 - m) = true ∧ Fin.ofNat 64 (x0 + m) = px ∧ Fin.ofNat 32 y = py) := by
  have hx : Fin.ofNat 64 (x0 + m) = px ↔ (x0 + m) % 64 = px.val := by simp [Fin.ext_iff]
  have hy : Fin.ofNat 32 y = py ↔ y % 32 = py.val := by simp [Fin.ext_iff]
  rw [hx, hy]
  constructor
  · rintro ⟨k, hk, h⟩
    by_cases e : k = m
    · subst e; exact .inr h
    · exact .inl ⟨k, by omega, h⟩
  · rintro (⟨k, hk, h⟩ | h)
    · exact ⟨k, by omega, h⟩
    · exact ⟨m, by omega, h⟩

/-- Two columns of a row never land on one pixel: 8 is less than 64. -/
theorem rowHit_fresh {x0 y : Nat} {bits : Byte} {m : Nat} (hm : m < 8) :
    ¬ rowHit x0 y bits m (Fin.ofNat 64 (x0 + m)) (Fin.ofNat 32 y) := by
  rintro ⟨k, hk, -, hx, -⟩
  simp only [Fin.val_ofNat] at hx
  omega

/-- The columns drawn so far flip the pixels they hit, and collide with a set pixel they hit. -/
theorem drawCols_spec (x0 y : Nat) (bits : Byte) (c : Display × Bool) (m : Nat) (hm : m ≤ 8) :
    (∀ px py, (rowHit x0 y bits m px py → Display.pixel (drawCols x0 y bits m c).1 px py = !Display.pixel c.1 px py) ∧
      (¬ rowHit x0 y bits m px py → Display.pixel (drawCols x0 y bits m c).1 px py = Display.pixel c.1 px py)) ∧
    ((drawCols x0 y bits m c).2 = true ↔
      c.2 = true ∨ ∃ px py, rowHit x0 y bits m px py ∧ Display.pixel c.1 px py = true) := by
  induction m with
  | zero =>
    refine ⟨fun px py => ⟨fun ⟨k, hk, _⟩ => by omega, fun _ => rfl⟩, ?_⟩
    constructor
    · exact .inl
    · rintro (h | ⟨_, _, ⟨k, hk, _⟩, _⟩)
      · exact h
      · omega
  | succ m ih =>
    obtain ⟨ihp, ihc⟩ := ih (by omega)
    have fresh := rowHit_fresh (x0 := x0) (y := y) (bits := bits) (m := m) (by omega)
    rw [drawCols_succ]
    by_cases hb : bits.getLsbD (7 - m) = true
    · simp only [hb, if_true, drawPixel, pixel_flip, rowHit_succ, true_and]
      refine ⟨fun px py => ?_, ?_⟩
      · by_cases hp : Fin.ofNat 64 (x0 + m) = px ∧ Fin.ofNat 32 y = py
        · obtain ⟨rfl, rfl⟩ := hp
          rw [(ihp _ _).2 fresh]
          simp
        · simp only [hp, or_false, decide_false, Bool.xor_false]
          exact ihp px py
      · rw [Bool.or_eq_true, ihc, (ihp _ _).2 fresh]
        constructor
        · rintro ((h | ⟨px, py, h, hd⟩) | h)
          · exact .inl h
          · exact .inr ⟨px, py, .inl h, hd⟩
          · exact .inr ⟨_, _, .inr ⟨rfl, rfl⟩, h⟩
        · rintro (h | ⟨px, py, h | ⟨rfl, rfl⟩, hd⟩)
          · exact .inl (.inl h)
          · exact .inl (.inr ⟨px, py, h, hd⟩)
          · exact .inr hd
    · rw [if_neg hb]
      simp only [rowHit_succ, hb]
      simpa using ⟨ihp, ihc⟩

/-! ### The whole sprite -/

/-- Does a row of the sprite set this pixel? -/
def rowsHit (x0 : Nat) : Nat → List Byte → Fin 64 → Fin 32 → Prop
  | _, [], _, _ => False
  | y, bits :: rows, px, py => rowHit x0 y bits 8 px py ∨ rowsHit x0 (y + 1) rows px py

theorem rowsHit_iff (x0 y : Nat) (rows : List Byte) (px : Fin 64) (py : Fin 32) :
    rowsHit x0 y rows px py ↔
      ∃ r, ∃ hr : r < rows.length, rowHit x0 (y + r) rows[r] 8 px py := by
  induction rows generalizing y with
  | nil => simp [rowsHit]
  | cons bits rows ih =>
    rw [rowsHit, ih]
    constructor
    · rintro (h | ⟨r, hr, h⟩)
      · exact ⟨0, by simp, by simpa using h⟩
      · exact ⟨r + 1, by simpa using hr, by simpa [Nat.add_assoc, Nat.add_comm 1] using h⟩
    · rintro ⟨r, hr, h⟩
      cases r with
      | zero => exact .inl (by simpa using h)
      | succ r => exact .inr ⟨r, by simpa using hr, by simpa [Nat.add_assoc, Nat.add_comm 1] using h⟩

/-- A row above shares no pixel with at most 31 rows below it. -/
theorem rowsHit_fresh {x0 y : Nat} {bits : Byte} {rows : List Byte} {px : Fin 64} {py : Fin 32}
    (hl : rows.length < 32) (h : rowHit x0 y bits 8 px py) : ¬ rowsHit x0 (y + 1) rows px py := by
  rw [rowsHit_iff]
  rintro ⟨r, hr, k', -, -, -, hy'⟩
  obtain ⟨k, -, -, -, hy⟩ := h
  omega

/-- What drawing the rows of a sprite does: the pixels the sprite hits are flipped, the others kept, and the
collision is a set pixel that it hits. -/
theorem drawRows_spec (x0 : Nat) (rows : List Byte) (y : Nat) (c : Display × Bool) (hl : rows.length ≤ 32) :
    (∀ px py, (rowsHit x0 y rows px py → Display.pixel (drawRows x0 y rows c).1 px py = !Display.pixel c.1 px py) ∧
      (¬ rowsHit x0 y rows px py → Display.pixel (drawRows x0 y rows c).1 px py = Display.pixel c.1 px py)) ∧
    ((drawRows x0 y rows c).2 = true ↔
      c.2 = true ∨ ∃ px py, rowsHit x0 y rows px py ∧ Display.pixel c.1 px py = true) := by
  induction rows generalizing y c with
  | nil => simp [rowsHit, drawRows]
  | cons bits rows ih =>
    simp only [List.length_cons] at hl
    have hrow := drawCols_spec x0 y bits c 8 (Nat.le_refl 8)
    have e : drawRow x0 y bits c = drawCols x0 y bits 8 c := rfl
    rw [← e] at hrow
    obtain ⟨rp, rc⟩ := hrow
    obtain ⟨ihp, ihc⟩ := ih (y + 1) (drawRow x0 y bits c) (by omega)
    refine ⟨fun px py => ?_, ?_⟩
    · by_cases h1 : rowHit x0 y bits 8 px py
      · have h2 := rowsHit_fresh (x0 := x0) (rows := rows) (by omega) h1
        simp [rowsHit, drawRows, h1, (ihp px py).2 h2, (rp px py).1 h1]
      · simp only [rowsHit, h1, false_or, drawRows, ← (rp px py).2 h1]
        exact ihp px py
    · rw [drawRows, ihc, rc]
      constructor
      · rintro ((h | ⟨px, py, h, hd⟩) | ⟨px, py, h, hd⟩)
        · exact .inl h
        · exact .inr ⟨px, py, .inl h, hd⟩
        · refine .inr ⟨px, py, .inr h, ?_⟩
          have h1 : ¬ rowHit x0 y bits 8 px py := fun h1 => rowsHit_fresh (by omega) h1 h
          rwa [← (rp px py).2 h1]
      · rintro (h | ⟨px, py, h | h, hd⟩)
        · exact .inl (.inl h)
        · exact .inl (.inr ⟨px, py, h, hd⟩)
        · refine .inr ⟨px, py, h, ?_⟩
          have h1 : ¬ rowHit x0 y bits 8 px py := fun h1 => rowsHit_fresh (by omega) h1 h
          rwa [(rp px py).2 h1]

end Sys2Proof.Machine
end

