-- ==== Sys2Proof/Laws/Encode.lean ====
section
/-! SUPPORT. The fields of the encoder's formats (30_encoding.md R72, R75). -/

namespace Sys2Proof

@[simp] theorem fieldD1_formatNNN (d : Nibble) (nnn : Addr) : fieldD1 (formatNNN d nnn) = d := by
  ext i hi; simp [fieldD1, formatNNN]; grind

@[simp] theorem fieldNNN_formatNNN (d : Nibble) (nnn : Addr) : fieldNNN (formatNNN d nnn) = nnn := by
  ext i hi; simp [fieldNNN, formatNNN]; grind

@[simp] theorem fieldD1_formatXNN (d : Nibble) (x : Reg) (nn : Byte) : fieldD1 (formatXNN d x nn) = d := by
  ext i hi; simp [fieldD1, formatXNN]; grind

@[simp] theorem fieldX_formatXNN (d : Nibble) (x : Reg) (nn : Byte) : fieldX (formatXNN d x nn) = x := by
  ext i hi; simp [fieldX, formatXNN]; grind

@[simp] theorem fieldNN_formatXNN (d : Nibble) (x : Reg) (nn : Byte) : fieldNN (formatXNN d x nn) = nn := by
  ext i hi; simp [fieldNN, formatXNN]; grind

@[simp] theorem fieldD1_formatXYN (d : Nibble) (x y : Reg) (n : Nibble) : fieldD1 (formatXYN d x y n) = d := by
  ext i hi; simp [fieldD1, formatXYN]; grind

@[simp] theorem fieldX_formatXYN (d : Nibble) (x y : Reg) (n : Nibble) : fieldX (formatXYN d x y n) = x := by
  ext i hi; simp [fieldX, formatXYN]; grind

@[simp] theorem fieldY_formatXYN (d : Nibble) (x y : Reg) (n : Nibble) : fieldY (formatXYN d x y n) = y := by
  ext i hi; simp [fieldY, formatXYN]; grind

@[simp] theorem fieldN_formatXYN (d : Nibble) (x y : Reg) (n : Nibble) : fieldN (formatXYN d x y n) = n := by
  ext i hi; simp [fieldN, formatXYN]; grind

theorem formatNNN_toNat (d : Nibble) (nnn : Addr) : (formatNNN d nnn).toNat = 4096 * d.toNat + nnn.toNat := by
  unfold formatNNN
  erw [BitVec.toNat_append]
  rw [← Nat.shiftLeft_add_eq_or_of_lt nnn.isLt, Nat.shiftLeft_eq]
  omega

theorem formatXNN_toNat (d : Nibble) (x : Reg) (nn : Byte) :
    (formatXNN d x nn).toNat = 4096 * d.toNat + 256 * x.toNat + nn.toNat := by
  unfold formatXNN
  erw [BitVec.toNat_append, BitVec.toNat_append]
  rw [← Nat.shiftLeft_add_eq_or_of_lt x.isLt, ← Nat.shiftLeft_add_eq_or_of_lt nn.isLt]
  simp only [Nat.shiftLeft_eq]
  omega

theorem formatXYN_toNat (d : Nibble) (x y : Reg) (n : Nibble) :
    (formatXYN d x y n).toNat = 4096 * d.toNat + 256 * x.toNat + 16 * y.toNat + n.toNat := by
  unfold formatXYN
  erw [BitVec.toNat_append, BitVec.toNat_append, BitVec.toNat_append]
  rw [← Nat.shiftLeft_add_eq_or_of_lt x.isLt, ← Nat.shiftLeft_add_eq_or_of_lt y.isLt,
    ← Nat.shiftLeft_add_eq_or_of_lt n.isLt]
  simp only [Nat.shiftLeft_eq]
  omega

/-- A word is its four nibbles. -/
theorem word_eq_formatXYN (w : Word) : formatXYN (fieldD1 w) (fieldX w) (fieldY w) (fieldN w) = w := by
  ext i hi; simp [formatXYN, fieldD1, fieldX, fieldY, fieldN]; grind

theorem word_eq_formatXNN (w : Word) : formatXNN (fieldD1 w) (fieldX w) (fieldNN w) = w := by
  ext i hi; simp [formatXNN, fieldD1, fieldX, fieldNN]; grind

theorem word_eq_formatNNN (w : Word) : formatNNN (fieldD1 w) (fieldNNN w) = w := by
  ext i hi; simp [formatNNN, fieldD1, fieldNNN]; grind

/-! ### A mask, written in a format, acts field by field -/

theorem formatNNN_and (d d' : Nibble) (a a' : Addr) :
    formatNNN d a &&& formatNNN d' a' = formatNNN (d &&& d') (a &&& a') := by
  unfold formatNNN
  exact BitVec.and_append

theorem formatXNN_and (d d' : Nibble) (x x' : Reg) (nn nn' : Byte) :
    formatXNN d x nn &&& formatXNN d' x' nn' = formatXNN (d &&& d') (x &&& x') (nn &&& nn') := by
  unfold formatXNN
  rw [← BitVec.and_append]
  exact BitVec.and_append

theorem formatXYN_and (d d' : Nibble) (x x' y y' : Reg) (n n' : Nibble) :
    formatXYN d x y n &&& formatXYN d' x' y' n' = formatXYN (d &&& d') (x &&& x') (y &&& y') (n &&& n') := by
  unfold formatXYN
  rw [← BitVec.and_append, ← BitVec.and_append]
  exact BitVec.and_append

end Sys2Proof
end

