-- ==== Sys2Proof/Laws/Memory.lean ====
section
/-! SUPPORT. What reads and writes of memory do, and that every memory operation keeps the canonical form. -/

namespace Sys2Proof.Machine.Memory

/-! ### Reads after writes -/

theorem read_insert (m : Memory) (a b : Nat) (w : Byte) :
    (m.insert a w).read b = if b = a then w else m.read b := by
  induction m with
  | nil => simp [insert, read]
  | cons c rest ih =>
    obtain ⟨k, u⟩ := c
    simp only [insert]
    split
    · simp [read]
    · split
      · next h => subst h; by_cases hb : b = a <;> simp [read, hb]
      · next h => by_cases hb : b = k
                  · subst hb; simp [read, Ne.symm h]
                  · simp [read, hb, ih]

theorem read_erase (m : Memory) (a b : Nat) :
    (m.erase a).read b = if b = a then resetByte a else m.read b := by
  induction m with
  | nil => by_cases hb : b = a <;> simp [erase, read, hb]
  | cons c rest ih =>
    obtain ⟨k, u⟩ := c
    have hcons : erase ((k, u) :: rest) a = if k = a then erase rest a else (k, u) :: erase rest a := by
      by_cases hk : k = a <;> simp [erase, hk]
    rw [hcons]
    by_cases hk : k = a
    · subst hk
      by_cases hb : b = k
      · subst hb; simp [ih]
      · simp [ih, read, hb]
    · by_cases hb : b = k
      · subst hb; simp [read, hk]
      · simp [hk, read, hb, ih]

/-- A byte written inside memory reads back; every other byte reads as before. -/
theorem read_write (m : Memory) (a b : Nat) (w : Byte) :
    (m.write a w).read b = if b = a ∧ a < 4096 then w else m.read b := by
  unfold write
  simp only [Config.memSize_eq]
  by_cases ha : 4096 ≤ a
  · simp [ha, Nat.not_lt.mpr ha]
  · have hlt : a < 4096 := by omega
    simp only [ha, if_false, hlt, and_true]
    split
    · next h => rw [read_erase, h]
    · exact read_insert m a b w

/-- Bytes outside the written range read as before. -/
theorem read_writeBytes_outside (ws : List Byte) (m : Memory) (a b : Nat)
    (h : b < a ∨ a + ws.length ≤ b) : (m.writeBytes a ws).read b = m.read b := by
  induction ws generalizing m a with
  | nil => rfl
  | cons w ws ih =>
    simp only [List.length_cons] at h
    have hne : ¬ (b = a ∧ a < 4096) := by omega
    rw [writeBytes, ih _ _ (by omega), read_write, if_neg hne]

/-- Inside a range that is in memory, the bytes are the ones written. -/
theorem read_writeBytes_inside (ws : List Byte) (m : Memory) (a k : Nat)
    (hk : k < ws.length) (hm : a + ws.length ≤ 4096) : (m.writeBytes a ws).read (a + k) = ws[k] := by
  induction ws generalizing m a k with
  | nil => simp at hk
  | cons w ws ih =>
    simp only [List.length_cons] at hk hm
    cases k with
    | zero =>
      have hlt : a < 4096 := by omega
      rw [writeBytes, Nat.add_zero, read_writeBytes_outside _ _ _ _ (by omega), read_write]
      simp [hlt]
    | succ k =>
      have e : a + (k + 1) = a + 1 + k := by omega
      rw [writeBytes, e, ih _ _ _ (by omega) (by omega)]
      simp

@[simp] theorem length_readBytes (m : Memory) (a n : Nat) : (m.readBytes a n).length = n := by
  induction n generalizing a with
  | zero => rfl
  | succ n ih => simp [readBytes, ih]

theorem getElem_readBytes (m : Memory) (a n k : Nat) (h : k < (m.readBytes a n).length) :
    (m.readBytes a n)[k] = m.read (a + k) := by
  induction n generalizing a k with
  | zero => simp [readBytes] at h
  | succ n ih =>
    cases k with
    | zero => rfl
    | succ k =>
      have e : a + (k + 1) = a + 1 + k := by omega
      simp only [readBytes, List.getElem_cons_succ, e]
      exact ih _ _ _

/-! ### The canonical form -/

theorem wfFrom_mono {low low' : Nat} {m : Memory} (h : m.wfFrom low' = true) (hl : low ≤ low') :
    m.wfFrom low = true := by
  cases m with
  | nil => rfl
  | cons c rest =>
    obtain ⟨k, u⟩ := c
    simp only [wfFrom, Bool.and_eq_true, decide_eq_true_eq] at h ⊢
    exact ⟨⟨⟨by omega, h.1.1.2⟩, h.1.2⟩, h.2⟩

theorem wfFrom_insert {low : Nat} {m : Memory} {a : Nat} {w : Byte} (h : m.wfFrom low = true)
    (hl : low ≤ a) (ha : a < 4096) (hw : w ≠ resetByte a) : (m.insert a w).wfFrom low = true := by
  induction m generalizing low with
  | nil => simp [insert, wfFrom, hl, ha, hw]
  | cons c rest ih =>
    obtain ⟨k, u⟩ := c
    simp only [wfFrom, Bool.and_eq_true, decide_eq_true_eq, bne_iff_ne, Config.memSize_eq] at h
    simp only [insert]
    split
    · next hlt => simp [wfFrom, hl, ha, hw, h.1.1.2, h.1.2, h.2]; omega
    · split
      · next he => subst he; simp [wfFrom, hl, ha, hw, h.2]
      · simp [wfFrom, h.1.1.1, h.1.1.2, h.1.2]
        exact ih h.2 (by omega)

theorem wfFrom_erase {low : Nat} {m : Memory} (a : Nat) (h : m.wfFrom low = true) :
    (m.erase a).wfFrom low = true := by
  induction m generalizing low with
  | nil => rfl
  | cons c rest ih =>
    obtain ⟨k, u⟩ := c
    simp only [wfFrom, Bool.and_eq_true, decide_eq_true_eq, bne_iff_ne, Config.memSize_eq] at h
    by_cases hk : k = a
    · have e : erase ((k, u) :: rest) a = erase rest a := by simp [erase, hk]
      rw [e]
      exact wfFrom_mono (ih h.2) (by omega)
    · have e : erase ((k, u) :: rest) a = (k, u) :: erase rest a := by simp [erase, hk]
      rw [e]
      simp [wfFrom, h.1.1.1, h.1.1.2, h.1.2, ih h.2]

/-- A write keeps the canonical form. -/
theorem wf_write {m : Memory} (h : m.wf = true) (a : Nat) (w : Byte) : (m.write a w).wf = true := by
  unfold write
  split
  · exact h
  · split
    · exact wfFrom_erase a h
    · next ha hw => exact wfFrom_insert h (Nat.zero_le a) (by simpa using ha) hw

/-- Writing bytes keeps the canonical form. -/
theorem wf_writeBytes {m : Memory} (h : m.wf = true) (a : Nat) (ws : List Byte) :
    (m.writeBytes a ws).wf = true := by
  induction ws generalizing m a with
  | nil => exact h
  | cons w ws ih => exact ih (wf_write h a w) _

/-- Memory after reset is canonical. -/
theorem wf_reset : State.reset.mem.wf = true := rfl

end Sys2Proof.Machine.Memory
end

