-- ==== Sys2Proof/Laws/State.lean ====
section
/-! SUPPORT. One lemma per field and update of State, each true by rfl, so that no later proof unfolds a record
update; then the register reads. -/

namespace Sys2Proof.Machine.State

variable (s : State)

/-! #### setPc -/

@[simp] theorem setPc_v (w : Word) : (s.setPc w).v = s.v := rfl
@[simp] theorem setPc_pc (w : Word) : (s.setPc w).pc = w := rfl
@[simp] theorem setPc_i (w : Word) : (s.setPc w).i = s.i := rfl
@[simp] theorem setPc_stack (w : Word) : (s.setPc w).stack = s.stack := rfl
@[simp] theorem setPc_sp (w : Word) : (s.setPc w).sp = s.sp := rfl
@[simp] theorem setPc_dt (w : Word) : (s.setPc w).dt = s.dt := rfl
@[simp] theorem setPc_st (w : Word) : (s.setPc w).st = s.st := rfl
@[simp] theorem setPc_key (w : Word) : (s.setPc w).key = s.key := rfl
@[simp] theorem setPc_disp (w : Word) : (s.setPc w).disp = s.disp := rfl
@[simp] theorem setPc_mem (w : Word) : (s.setPc w).mem = s.mem := rfl
@[simp] theorem setPc_phase (w : Word) : (s.setPc w).phase = s.phase := rfl
@[simp] theorem setPc_fault (w : Word) : (s.setPc w).fault = s.fault := rfl
@[simp] theorem setPc_font (w : Word) : (s.setPc w).font = s.font := rfl
@[simp] theorem setPc_port (w : Word) : (s.setPc w).port = s.port := rfl
@[simp] theorem setPc_readV (w : Word) (y : Reg) : (s.setPc w).readV y = s.readV y := rfl

/-! #### setI -/

@[simp] theorem setI_v (w : Word) : (s.setI w).v = s.v := rfl
@[simp] theorem setI_pc (w : Word) : (s.setI w).pc = s.pc := rfl
@[simp] theorem setI_i (w : Word) : (s.setI w).i = w := rfl
@[simp] theorem setI_stack (w : Word) : (s.setI w).stack = s.stack := rfl
@[simp] theorem setI_sp (w : Word) : (s.setI w).sp = s.sp := rfl
@[simp] theorem setI_dt (w : Word) : (s.setI w).dt = s.dt := rfl
@[simp] theorem setI_st (w : Word) : (s.setI w).st = s.st := rfl
@[simp] theorem setI_key (w : Word) : (s.setI w).key = s.key := rfl
@[simp] theorem setI_disp (w : Word) : (s.setI w).disp = s.disp := rfl
@[simp] theorem setI_mem (w : Word) : (s.setI w).mem = s.mem := rfl
@[simp] theorem setI_phase (w : Word) : (s.setI w).phase = s.phase := rfl
@[simp] theorem setI_fault (w : Word) : (s.setI w).fault = s.fault := rfl
@[simp] theorem setI_font (w : Word) : (s.setI w).font = s.font := rfl
@[simp] theorem setI_port (w : Word) : (s.setI w).port = s.port := rfl
@[simp] theorem setI_readV (w : Word) (y : Reg) : (s.setI w).readV y = s.readV y := rfl

/-! #### setDt -/

@[simp] theorem setDt_v (b : Byte) : (s.setDt b).v = s.v := rfl
@[simp] theorem setDt_pc (b : Byte) : (s.setDt b).pc = s.pc := rfl
@[simp] theorem setDt_i (b : Byte) : (s.setDt b).i = s.i := rfl
@[simp] theorem setDt_stack (b : Byte) : (s.setDt b).stack = s.stack := rfl
@[simp] theorem setDt_sp (b : Byte) : (s.setDt b).sp = s.sp := rfl
@[simp] theorem setDt_dt (b : Byte) : (s.setDt b).dt = b := rfl
@[simp] theorem setDt_st (b : Byte) : (s.setDt b).st = s.st := rfl
@[simp] theorem setDt_key (b : Byte) : (s.setDt b).key = s.key := rfl
@[simp] theorem setDt_disp (b : Byte) : (s.setDt b).disp = s.disp := rfl
@[simp] theorem setDt_mem (b : Byte) : (s.setDt b).mem = s.mem := rfl
@[simp] theorem setDt_phase (b : Byte) : (s.setDt b).phase = s.phase := rfl
@[simp] theorem setDt_fault (b : Byte) : (s.setDt b).fault = s.fault := rfl
@[simp] theorem setDt_font (b : Byte) : (s.setDt b).font = s.font := rfl
@[simp] theorem setDt_port (b : Byte) : (s.setDt b).port = s.port := rfl
@[simp] theorem setDt_readV (b : Byte) (y : Reg) : (s.setDt b).readV y = s.readV y := rfl

/-! #### setSt -/

@[simp] theorem setSt_v (b : Byte) : (s.setSt b).v = s.v := rfl
@[simp] theorem setSt_pc (b : Byte) : (s.setSt b).pc = s.pc := rfl
@[simp] theorem setSt_i (b : Byte) : (s.setSt b).i = s.i := rfl
@[simp] theorem setSt_stack (b : Byte) : (s.setSt b).stack = s.stack := rfl
@[simp] theorem setSt_sp (b : Byte) : (s.setSt b).sp = s.sp := rfl
@[simp] theorem setSt_dt (b : Byte) : (s.setSt b).dt = s.dt := rfl
@[simp] theorem setSt_st (b : Byte) : (s.setSt b).st = b := rfl
@[simp] theorem setSt_key (b : Byte) : (s.setSt b).key = s.key := rfl
@[simp] theorem setSt_disp (b : Byte) : (s.setSt b).disp = s.disp := rfl
@[simp] theorem setSt_mem (b : Byte) : (s.setSt b).mem = s.mem := rfl
@[simp] theorem setSt_phase (b : Byte) : (s.setSt b).phase = s.phase := rfl
@[simp] theorem setSt_fault (b : Byte) : (s.setSt b).fault = s.fault := rfl
@[simp] theorem setSt_font (b : Byte) : (s.setSt b).font = s.font := rfl
@[simp] theorem setSt_port (b : Byte) : (s.setSt b).port = s.port := rfl
@[simp] theorem setSt_readV (b : Byte) (y : Reg) : (s.setSt b).readV y = s.readV y := rfl

/-! #### setDisp -/

@[simp] theorem setDisp_v (d : Display) : (s.setDisp d).v = s.v := rfl
@[simp] theorem setDisp_pc (d : Display) : (s.setDisp d).pc = s.pc := rfl
@[simp] theorem setDisp_i (d : Display) : (s.setDisp d).i = s.i := rfl
@[simp] theorem setDisp_stack (d : Display) : (s.setDisp d).stack = s.stack := rfl
@[simp] theorem setDisp_sp (d : Display) : (s.setDisp d).sp = s.sp := rfl
@[simp] theorem setDisp_dt (d : Display) : (s.setDisp d).dt = s.dt := rfl
@[simp] theorem setDisp_st (d : Display) : (s.setDisp d).st = s.st := rfl
@[simp] theorem setDisp_key (d : Display) : (s.setDisp d).key = s.key := rfl
@[simp] theorem setDisp_disp (d : Display) : (s.setDisp d).disp = d := rfl
@[simp] theorem setDisp_mem (d : Display) : (s.setDisp d).mem = s.mem := rfl
@[simp] theorem setDisp_phase (d : Display) : (s.setDisp d).phase = s.phase := rfl
@[simp] theorem setDisp_fault (d : Display) : (s.setDisp d).fault = s.fault := rfl
@[simp] theorem setDisp_font (d : Display) : (s.setDisp d).font = s.font := rfl
@[simp] theorem setDisp_port (d : Display) : (s.setDisp d).port = s.port := rfl
@[simp] theorem setDisp_readV (d : Display) (y : Reg) : (s.setDisp d).readV y = s.readV y := rfl

/-! #### setMem -/

@[simp] theorem setMem_v (m : Memory) : (s.setMem m).v = s.v := rfl
@[simp] theorem setMem_pc (m : Memory) : (s.setMem m).pc = s.pc := rfl
@[simp] theorem setMem_i (m : Memory) : (s.setMem m).i = s.i := rfl
@[simp] theorem setMem_stack (m : Memory) : (s.setMem m).stack = s.stack := rfl
@[simp] theorem setMem_sp (m : Memory) : (s.setMem m).sp = s.sp := rfl
@[simp] theorem setMem_dt (m : Memory) : (s.setMem m).dt = s.dt := rfl
@[simp] theorem setMem_st (m : Memory) : (s.setMem m).st = s.st := rfl
@[simp] theorem setMem_key (m : Memory) : (s.setMem m).key = s.key := rfl
@[simp] theorem setMem_disp (m : Memory) : (s.setMem m).disp = s.disp := rfl
@[simp] theorem setMem_mem (m : Memory) : (s.setMem m).mem = m := rfl
@[simp] theorem setMem_phase (m : Memory) : (s.setMem m).phase = s.phase := rfl
@[simp] theorem setMem_fault (m : Memory) : (s.setMem m).fault = s.fault := rfl
@[simp] theorem setMem_font (m : Memory) : (s.setMem m).font = s.font := rfl
@[simp] theorem setMem_port (m : Memory) : (s.setMem m).port = s.port := rfl
@[simp] theorem setMem_readV (m : Memory) (y : Reg) : (s.setMem m).readV y = s.readV y := rfl

/-! #### setPhase -/

@[simp] theorem setPhase_v (p : Phase) : (s.setPhase p).v = s.v := rfl
@[simp] theorem setPhase_pc (p : Phase) : (s.setPhase p).pc = s.pc := rfl
@[simp] theorem setPhase_i (p : Phase) : (s.setPhase p).i = s.i := rfl
@[simp] theorem setPhase_stack (p : Phase) : (s.setPhase p).stack = s.stack := rfl
@[simp] theorem setPhase_sp (p : Phase) : (s.setPhase p).sp = s.sp := rfl
@[simp] theorem setPhase_dt (p : Phase) : (s.setPhase p).dt = s.dt := rfl
@[simp] theorem setPhase_st (p : Phase) : (s.setPhase p).st = s.st := rfl
@[simp] theorem setPhase_key (p : Phase) : (s.setPhase p).key = s.key := rfl
@[simp] theorem setPhase_disp (p : Phase) : (s.setPhase p).disp = s.disp := rfl
@[simp] theorem setPhase_mem (p : Phase) : (s.setPhase p).mem = s.mem := rfl
@[simp] theorem setPhase_phase (p : Phase) : (s.setPhase p).phase = p := rfl
@[simp] theorem setPhase_fault (p : Phase) : (s.setPhase p).fault = s.fault := rfl
@[simp] theorem setPhase_font (p : Phase) : (s.setPhase p).font = s.font := rfl
@[simp] theorem setPhase_port (p : Phase) : (s.setPhase p).port = s.port := rfl
@[simp] theorem setPhase_readV (p : Phase) (y : Reg) : (s.setPhase p).readV y = s.readV y := rfl

/-! #### setPort -/

@[simp] theorem setPort_v (p : HostPort) : (s.setPort p).v = s.v := rfl
@[simp] theorem setPort_pc (p : HostPort) : (s.setPort p).pc = s.pc := rfl
@[simp] theorem setPort_i (p : HostPort) : (s.setPort p).i = s.i := rfl
@[simp] theorem setPort_stack (p : HostPort) : (s.setPort p).stack = s.stack := rfl
@[simp] theorem setPort_sp (p : HostPort) : (s.setPort p).sp = s.sp := rfl
@[simp] theorem setPort_dt (p : HostPort) : (s.setPort p).dt = s.dt := rfl
@[simp] theorem setPort_st (p : HostPort) : (s.setPort p).st = s.st := rfl
@[simp] theorem setPort_key (p : HostPort) : (s.setPort p).key = s.key := rfl
@[simp] theorem setPort_disp (p : HostPort) : (s.setPort p).disp = s.disp := rfl
@[simp] theorem setPort_mem (p : HostPort) : (s.setPort p).mem = s.mem := rfl
@[simp] theorem setPort_phase (p : HostPort) : (s.setPort p).phase = s.phase := rfl
@[simp] theorem setPort_fault (p : HostPort) : (s.setPort p).fault = s.fault := rfl
@[simp] theorem setPort_font (p : HostPort) : (s.setPort p).font = s.font := rfl
@[simp] theorem setPort_port (p : HostPort) : (s.setPort p).port = p := rfl
@[simp] theorem setPort_readV (p : HostPort) (y : Reg) : (s.setPort p).readV y = s.readV y := rfl

/-! #### setInputs -/

@[simp] theorem setInputs_v (ts : List Transaction) : (s.setInputs ts).v = s.v := rfl
@[simp] theorem setInputs_pc (ts : List Transaction) : (s.setInputs ts).pc = s.pc := rfl
@[simp] theorem setInputs_i (ts : List Transaction) : (s.setInputs ts).i = s.i := rfl
@[simp] theorem setInputs_stack (ts : List Transaction) : (s.setInputs ts).stack = s.stack := rfl
@[simp] theorem setInputs_sp (ts : List Transaction) : (s.setInputs ts).sp = s.sp := rfl
@[simp] theorem setInputs_dt (ts : List Transaction) : (s.setInputs ts).dt = s.dt := rfl
@[simp] theorem setInputs_st (ts : List Transaction) : (s.setInputs ts).st = s.st := rfl
@[simp] theorem setInputs_key (ts : List Transaction) : (s.setInputs ts).key = s.key := rfl
@[simp] theorem setInputs_disp (ts : List Transaction) : (s.setInputs ts).disp = s.disp := rfl
@[simp] theorem setInputs_mem (ts : List Transaction) : (s.setInputs ts).mem = s.mem := rfl
@[simp] theorem setInputs_phase (ts : List Transaction) : (s.setInputs ts).phase = s.phase := rfl
@[simp] theorem setInputs_fault (ts : List Transaction) : (s.setInputs ts).fault = s.fault := rfl
@[simp] theorem setInputs_font (ts : List Transaction) : (s.setInputs ts).font = s.font := rfl
@[simp] theorem setInputs_port (ts : List Transaction) : (s.setInputs ts).port = { s.port with inputs := ts } := rfl
@[simp] theorem setInputs_readV (ts : List Transaction) (y : Reg) : (s.setInputs ts).readV y = s.readV y := rfl

/-! #### respond -/

@[simp] theorem respond_v (r : Response) : (s.respond r).v = s.v := rfl
@[simp] theorem respond_pc (r : Response) : (s.respond r).pc = s.pc := rfl
@[simp] theorem respond_i (r : Response) : (s.respond r).i = s.i := rfl
@[simp] theorem respond_stack (r : Response) : (s.respond r).stack = s.stack := rfl
@[simp] theorem respond_sp (r : Response) : (s.respond r).sp = s.sp := rfl
@[simp] theorem respond_dt (r : Response) : (s.respond r).dt = s.dt := rfl
@[simp] theorem respond_st (r : Response) : (s.respond r).st = s.st := rfl
@[simp] theorem respond_key (r : Response) : (s.respond r).key = s.key := rfl
@[simp] theorem respond_disp (r : Response) : (s.respond r).disp = s.disp := rfl
@[simp] theorem respond_mem (r : Response) : (s.respond r).mem = s.mem := rfl
@[simp] theorem respond_phase (r : Response) : (s.respond r).phase = s.phase := rfl
@[simp] theorem respond_fault (r : Response) : (s.respond r).fault = s.fault := rfl
@[simp] theorem respond_font (r : Response) : (s.respond r).font = s.font := rfl
@[simp] theorem respond_port (r : Response) : (s.respond r).port = { s.port with response := r } := rfl
@[simp] theorem respond_readV (r : Response) (y : Reg) : (s.respond r).readV y = s.readV y := rfl

/-! #### consumeRandom -/

@[simp] theorem consumeRandom_v : (s.consumeRandom).v = s.v := rfl
@[simp] theorem consumeRandom_pc : (s.consumeRandom).pc = s.pc := rfl
@[simp] theorem consumeRandom_i : (s.consumeRandom).i = s.i := rfl
@[simp] theorem consumeRandom_stack : (s.consumeRandom).stack = s.stack := rfl
@[simp] theorem consumeRandom_sp : (s.consumeRandom).sp = s.sp := rfl
@[simp] theorem consumeRandom_dt : (s.consumeRandom).dt = s.dt := rfl
@[simp] theorem consumeRandom_st : (s.consumeRandom).st = s.st := rfl
@[simp] theorem consumeRandom_key : (s.consumeRandom).key = s.key := rfl
@[simp] theorem consumeRandom_disp : (s.consumeRandom).disp = s.disp := rfl
@[simp] theorem consumeRandom_mem : (s.consumeRandom).mem = s.mem := rfl
@[simp] theorem consumeRandom_phase : (s.consumeRandom).phase = s.phase := rfl
@[simp] theorem consumeRandom_fault : (s.consumeRandom).fault = s.fault := rfl
@[simp] theorem consumeRandom_font : (s.consumeRandom).font = s.font := rfl
@[simp] theorem consumeRandom_port : (s.consumeRandom).port = { s.port with random := none, draws := s.port.draws + 1 } := rfl
@[simp] theorem consumeRandom_readV (y : Reg) : (s.consumeRandom).readV y = s.readV y := rfl

/-! #### writeV -/

@[simp] theorem writeV_v (x : Reg) (b : Byte) : (s.writeV x b).v = s.v.set x.toNat b x.isLt := rfl
@[simp] theorem writeV_pc (x : Reg) (b : Byte) : (s.writeV x b).pc = s.pc := rfl
@[simp] theorem writeV_i (x : Reg) (b : Byte) : (s.writeV x b).i = s.i := rfl
@[simp] theorem writeV_stack (x : Reg) (b : Byte) : (s.writeV x b).stack = s.stack := rfl
@[simp] theorem writeV_sp (x : Reg) (b : Byte) : (s.writeV x b).sp = s.sp := rfl
@[simp] theorem writeV_dt (x : Reg) (b : Byte) : (s.writeV x b).dt = s.dt := rfl
@[simp] theorem writeV_st (x : Reg) (b : Byte) : (s.writeV x b).st = s.st := rfl
@[simp] theorem writeV_key (x : Reg) (b : Byte) : (s.writeV x b).key = s.key := rfl
@[simp] theorem writeV_disp (x : Reg) (b : Byte) : (s.writeV x b).disp = s.disp := rfl
@[simp] theorem writeV_mem (x : Reg) (b : Byte) : (s.writeV x b).mem = s.mem := rfl
@[simp] theorem writeV_phase (x : Reg) (b : Byte) : (s.writeV x b).phase = s.phase := rfl
@[simp] theorem writeV_fault (x : Reg) (b : Byte) : (s.writeV x b).fault = s.fault := rfl
@[simp] theorem writeV_font (x : Reg) (b : Byte) : (s.writeV x b).font = s.font := rfl
@[simp] theorem writeV_port (x : Reg) (b : Byte) : (s.writeV x b).port = s.port := rfl

/-! #### setFlag -/

@[simp] theorem setFlag_v (f : Byte) : (s.setFlag f).v = s.v.set 15 f := rfl
@[simp] theorem setFlag_pc (f : Byte) : (s.setFlag f).pc = s.pc := rfl
@[simp] theorem setFlag_i (f : Byte) : (s.setFlag f).i = s.i := rfl
@[simp] theorem setFlag_stack (f : Byte) : (s.setFlag f).stack = s.stack := rfl
@[simp] theorem setFlag_sp (f : Byte) : (s.setFlag f).sp = s.sp := rfl
@[simp] theorem setFlag_dt (f : Byte) : (s.setFlag f).dt = s.dt := rfl
@[simp] theorem setFlag_st (f : Byte) : (s.setFlag f).st = s.st := rfl
@[simp] theorem setFlag_key (f : Byte) : (s.setFlag f).key = s.key := rfl
@[simp] theorem setFlag_disp (f : Byte) : (s.setFlag f).disp = s.disp := rfl
@[simp] theorem setFlag_mem (f : Byte) : (s.setFlag f).mem = s.mem := rfl
@[simp] theorem setFlag_phase (f : Byte) : (s.setFlag f).phase = s.phase := rfl
@[simp] theorem setFlag_fault (f : Byte) : (s.setFlag f).fault = s.fault := rfl
@[simp] theorem setFlag_font (f : Byte) : (s.setFlag f).font = s.font := rfl
@[simp] theorem setFlag_port (f : Byte) : (s.setFlag f).port = s.port := rfl

/-! #### loadRegs -/

@[simp] theorem loadRegs_pc (x : Reg) : (s.loadRegs x).pc = s.pc := rfl
@[simp] theorem loadRegs_i (x : Reg) : (s.loadRegs x).i = s.i := rfl
@[simp] theorem loadRegs_stack (x : Reg) : (s.loadRegs x).stack = s.stack := rfl
@[simp] theorem loadRegs_sp (x : Reg) : (s.loadRegs x).sp = s.sp := rfl
@[simp] theorem loadRegs_dt (x : Reg) : (s.loadRegs x).dt = s.dt := rfl
@[simp] theorem loadRegs_st (x : Reg) : (s.loadRegs x).st = s.st := rfl
@[simp] theorem loadRegs_key (x : Reg) : (s.loadRegs x).key = s.key := rfl
@[simp] theorem loadRegs_disp (x : Reg) : (s.loadRegs x).disp = s.disp := rfl
@[simp] theorem loadRegs_mem (x : Reg) : (s.loadRegs x).mem = s.mem := rfl
@[simp] theorem loadRegs_phase (x : Reg) : (s.loadRegs x).phase = s.phase := rfl
@[simp] theorem loadRegs_fault (x : Reg) : (s.loadRegs x).fault = s.fault := rfl
@[simp] theorem loadRegs_font (x : Reg) : (s.loadRegs x).font = s.font := rfl
@[simp] theorem loadRegs_port (x : Reg) : (s.loadRegs x).port = s.port := rfl

/-! #### writeKey -/

@[simp] theorem writeKey_v (k : Nibble) (b : Bool) : (s.writeKey k b).v = s.v := rfl
@[simp] theorem writeKey_pc (k : Nibble) (b : Bool) : (s.writeKey k b).pc = s.pc := rfl
@[simp] theorem writeKey_i (k : Nibble) (b : Bool) : (s.writeKey k b).i = s.i := rfl
@[simp] theorem writeKey_stack (k : Nibble) (b : Bool) : (s.writeKey k b).stack = s.stack := rfl
@[simp] theorem writeKey_sp (k : Nibble) (b : Bool) : (s.writeKey k b).sp = s.sp := rfl
@[simp] theorem writeKey_dt (k : Nibble) (b : Bool) : (s.writeKey k b).dt = s.dt := rfl
@[simp] theorem writeKey_st (k : Nibble) (b : Bool) : (s.writeKey k b).st = s.st := rfl
@[simp] theorem writeKey_key (k : Nibble) (b : Bool) : (s.writeKey k b).key = s.key.set k.toNat b k.isLt := rfl
@[simp] theorem writeKey_disp (k : Nibble) (b : Bool) : (s.writeKey k b).disp = s.disp := rfl
@[simp] theorem writeKey_mem (k : Nibble) (b : Bool) : (s.writeKey k b).mem = s.mem := rfl
@[simp] theorem writeKey_phase (k : Nibble) (b : Bool) : (s.writeKey k b).phase = s.phase := rfl
@[simp] theorem writeKey_fault (k : Nibble) (b : Bool) : (s.writeKey k b).fault = s.fault := rfl
@[simp] theorem writeKey_font (k : Nibble) (b : Bool) : (s.writeKey k b).font = s.font := rfl
@[simp] theorem writeKey_port (k : Nibble) (b : Bool) : (s.writeKey k b).port = s.port := rfl
@[simp] theorem writeKey_readV (k : Nibble) (b : Bool) (y : Reg) : (s.writeKey k b).readV y = s.readV y := rfl

/-! #### storeData -/

@[simp] theorem storeData_v (bs : List Byte) : (s.storeData bs).v = s.v := rfl
@[simp] theorem storeData_pc (bs : List Byte) : (s.storeData bs).pc = s.pc := rfl
@[simp] theorem storeData_i (bs : List Byte) : (s.storeData bs).i = s.i := rfl
@[simp] theorem storeData_stack (bs : List Byte) : (s.storeData bs).stack = s.stack := rfl
@[simp] theorem storeData_sp (bs : List Byte) : (s.storeData bs).sp = s.sp := rfl
@[simp] theorem storeData_dt (bs : List Byte) : (s.storeData bs).dt = s.dt := rfl
@[simp] theorem storeData_st (bs : List Byte) : (s.storeData bs).st = s.st := rfl
@[simp] theorem storeData_key (bs : List Byte) : (s.storeData bs).key = s.key := rfl
@[simp] theorem storeData_disp (bs : List Byte) : (s.storeData bs).disp = s.disp := rfl
@[simp] theorem storeData_mem (bs : List Byte) : (s.storeData bs).mem = s.mem.writeBytes (s.dataAddr 0) bs := rfl
@[simp] theorem storeData_phase (bs : List Byte) : (s.storeData bs).phase = s.phase := rfl
@[simp] theorem storeData_fault (bs : List Byte) : (s.storeData bs).fault = s.fault := rfl
@[simp] theorem storeData_font (bs : List Byte) : (s.storeData bs).font = s.font := rfl
@[simp] theorem storeData_port (bs : List Byte) : (s.storeData bs).port = s.port := rfl
@[simp] theorem storeData_readV (bs : List Byte) (y : Reg) : (s.storeData bs).readV y = s.readV y := rfl

/-! #### skip -/

@[simp] theorem skip_v : (s.skip).v = s.v := rfl
@[simp] theorem skip_pc : (s.skip).pc = s.pc + 2 := rfl
@[simp] theorem skip_i : (s.skip).i = s.i := rfl
@[simp] theorem skip_stack : (s.skip).stack = s.stack := rfl
@[simp] theorem skip_sp : (s.skip).sp = s.sp := rfl
@[simp] theorem skip_dt : (s.skip).dt = s.dt := rfl
@[simp] theorem skip_st : (s.skip).st = s.st := rfl
@[simp] theorem skip_key : (s.skip).key = s.key := rfl
@[simp] theorem skip_disp : (s.skip).disp = s.disp := rfl
@[simp] theorem skip_mem : (s.skip).mem = s.mem := rfl
@[simp] theorem skip_phase : (s.skip).phase = s.phase := rfl
@[simp] theorem skip_fault : (s.skip).fault = s.fault := rfl
@[simp] theorem skip_font : (s.skip).font = s.font := rfl
@[simp] theorem skip_port : (s.skip).port = s.port := rfl
@[simp] theorem skip_readV (y : Reg) : (s.skip).readV y = s.readV y := rfl

/-! #### rewind -/

@[simp] theorem rewind_v : (s.rewind).v = s.v := rfl
@[simp] theorem rewind_pc : (s.rewind).pc = s.pc - 2 := rfl
@[simp] theorem rewind_i : (s.rewind).i = s.i := rfl
@[simp] theorem rewind_stack : (s.rewind).stack = s.stack := rfl
@[simp] theorem rewind_sp : (s.rewind).sp = s.sp := rfl
@[simp] theorem rewind_dt : (s.rewind).dt = s.dt := rfl
@[simp] theorem rewind_st : (s.rewind).st = s.st := rfl
@[simp] theorem rewind_key : (s.rewind).key = s.key := rfl
@[simp] theorem rewind_disp : (s.rewind).disp = s.disp := rfl
@[simp] theorem rewind_mem : (s.rewind).mem = s.mem := rfl
@[simp] theorem rewind_phase : (s.rewind).phase = s.phase := rfl
@[simp] theorem rewind_fault : (s.rewind).fault = s.fault := rfl
@[simp] theorem rewind_font : (s.rewind).font = s.font := rfl
@[simp] theorem rewind_port : (s.rewind).port = s.port := rfl
@[simp] theorem rewind_readV (y : Reg) : (s.rewind).readV y = s.readV y := rfl

/-! #### raise -/

@[simp] theorem raise_v (r : FaultReason) (p : Word) (o : Option Word) : (s.raise r p o).v = s.v := rfl
@[simp] theorem raise_pc (r : FaultReason) (p : Word) (o : Option Word) : (s.raise r p o).pc = p := rfl
@[simp] theorem raise_i (r : FaultReason) (p : Word) (o : Option Word) : (s.raise r p o).i = s.i := rfl
@[simp] theorem raise_stack (r : FaultReason) (p : Word) (o : Option Word) : (s.raise r p o).stack = s.stack := rfl
@[simp] theorem raise_sp (r : FaultReason) (p : Word) (o : Option Word) : (s.raise r p o).sp = s.sp := rfl
@[simp] theorem raise_dt (r : FaultReason) (p : Word) (o : Option Word) : (s.raise r p o).dt = s.dt := rfl
@[simp] theorem raise_st (r : FaultReason) (p : Word) (o : Option Word) : (s.raise r p o).st = s.st := rfl
@[simp] theorem raise_key (r : FaultReason) (p : Word) (o : Option Word) : (s.raise r p o).key = s.key := rfl
@[simp] theorem raise_disp (r : FaultReason) (p : Word) (o : Option Word) : (s.raise r p o).disp = s.disp := rfl
@[simp] theorem raise_mem (r : FaultReason) (p : Word) (o : Option Word) : (s.raise r p o).mem = s.mem := rfl
@[simp] theorem raise_phase (r : FaultReason) (p : Word) (o : Option Word) : (s.raise r p o).phase = .halted := rfl
@[simp] theorem raise_fault (r : FaultReason) (p : Word) (o : Option Word) : (s.raise r p o).fault = some ⟨r, p, o⟩ := rfl
@[simp] theorem raise_font (r : FaultReason) (p : Word) (o : Option Word) : (s.raise r p o).font = s.font := rfl
@[simp] theorem raise_port (r : FaultReason) (p : Word) (o : Option Word) : (s.raise r p o).port = { s.port with response := .faulted r } := rfl
@[simp] theorem raise_readV (r : FaultReason) (p : Word) (o : Option Word) (y : Reg) : (s.raise r p o).readV y = s.readV y := rfl

/-! #### raiseIn -/

@[simp] theorem raiseIn_v (r : FaultReason) (j : Instr) : (s.raiseIn r j).v = s.v := rfl
@[simp] theorem raiseIn_pc (r : FaultReason) (j : Instr) : (s.raiseIn r j).pc = s.pc - 2 := rfl
@[simp] theorem raiseIn_i (r : FaultReason) (j : Instr) : (s.raiseIn r j).i = s.i := rfl
@[simp] theorem raiseIn_stack (r : FaultReason) (j : Instr) : (s.raiseIn r j).stack = s.stack := rfl
@[simp] theorem raiseIn_sp (r : FaultReason) (j : Instr) : (s.raiseIn r j).sp = s.sp := rfl
@[simp] theorem raiseIn_dt (r : FaultReason) (j : Instr) : (s.raiseIn r j).dt = s.dt := rfl
@[simp] theorem raiseIn_st (r : FaultReason) (j : Instr) : (s.raiseIn r j).st = s.st := rfl
@[simp] theorem raiseIn_key (r : FaultReason) (j : Instr) : (s.raiseIn r j).key = s.key := rfl
@[simp] theorem raiseIn_disp (r : FaultReason) (j : Instr) : (s.raiseIn r j).disp = s.disp := rfl
@[simp] theorem raiseIn_mem (r : FaultReason) (j : Instr) : (s.raiseIn r j).mem = s.mem := rfl
@[simp] theorem raiseIn_phase (r : FaultReason) (j : Instr) : (s.raiseIn r j).phase = .halted := rfl
@[simp] theorem raiseIn_fault (r : FaultReason) (j : Instr) : (s.raiseIn r j).fault = some ⟨r, s.pc - 2, some (encode j)⟩ := rfl
@[simp] theorem raiseIn_font (r : FaultReason) (j : Instr) : (s.raiseIn r j).font = s.font := rfl
@[simp] theorem raiseIn_port (r : FaultReason) (j : Instr) : (s.raiseIn r j).port = { s.port with response := .faulted r } := rfl
@[simp] theorem raiseIn_readV (r : FaultReason) (j : Instr) (y : Reg) : (s.raiseIn r j).readV y = s.readV y := rfl

/-! #### beginCycle -/

@[simp] theorem beginCycle_eq (r : Option Byte) :
    s.beginCycle r = { s with
      pc := s.pc + 2, phase := .running, port := { s.port with random := r, response := .ok } } := rfl

/-! #### Registers -/

/-- A register reads what was last written to it; the others are untouched. -/
@[simp] theorem readV_writeV (x y : Reg) (b : Byte) :
    (s.writeV x b).readV y = if y = x then b else s.readV y := by
  unfold readV writeV
  by_cases h : y = x
  · subst h; simp
  · have hne : x.toNat ≠ y.toNat := fun e => h (BitVec.eq_of_toNat_eq e.symm)
    simp [h, hne]

@[simp] theorem readV_setFlag (y : Reg) (f : Byte) :
    (s.setFlag f).readV y = if y = VF then f else s.readV y := readV_writeV s VF y f

theorem readV_loadRegs (x y : Reg) :
    (s.loadRegs x).readV y = if y.toNat ≤ x.toNat then s.mem.read (s.dataAddr y.toNat) else s.readV y := by
  simp [readV, loadRegs]

/-- Two register files with the same reads are the same. -/
theorem v_ext {s t : State} (h : ∀ r : Reg, t.readV r = s.readV r) : t.v = s.v := by
  apply Vector.ext
  intro k hk
  have hr := h (BitVec.ofNat 4 k)
  have e : k % 16 = k := Nat.mod_eq_of_lt hk
  simpa [readV, e] using hr

end Sys2Proof.Machine.State
end

