-- ==== Sys2Proof/Laws/Ops.lean ====
section
/-! SUPPORT. What each shared operation can do, said once. -/

namespace Sys2Proof.Machine

theorem inRange_iff (base count : Nat) :
    inRange base count = true ↔ count = 0 ∨ base + count - 1 ≤ 0xFFF := by
  simp [inRange]

@[simp] theorem zext16_toNat (nnn : Addr) : (zext16 nnn).toNat = nnn.toNat := by
  simp [zext16]; omega

@[simp] theorem bigEndian_toNat (hi lo : Byte) : (bigEndian hi lo).toNat = 256 * hi.toNat + lo.toNat := by
  unfold bigEndian
  erw [BitVec.toNat_append]
  rw [← Nat.shiftLeft_add_eq_or_of_lt lo.isLt, Nat.shiftLeft_eq]
  omega

/-- Fetch answers the two bytes exactly when both are in memory. -/
theorem State.fetch16_eq_some {s : State} {a op : Word} :
    s.fetch16 a = some op ↔
      a.toNat + 1 ≤ 0xFFF ∧ op = bigEndian (s.mem.read a.toNat) (s.mem.read (a.toNat + 1)) := by
  unfold State.fetch16
  split
  · simp; omega
  · simp only [Option.some.injEq]
    exact ⟨fun e => ⟨by omega, e.symm⟩, fun e => e.2.symm⟩

theorem State.fetch16_eq_none {s : State} {a : Word} : s.fetch16 a = none ↔ 0xFFF < a.toNat + 1 := by
  unfold State.fetch16
  split <;> simp <;> omega

/-- A push writes the next free entry, where there is one. -/
theorem State.push_eq_some {s t : State} {w : Word} (h : s.push w = some t) :
    ∃ hlt : s.sp.val < 16,
      t = { s with stack := s.stack.set s.sp.val w hlt, sp := ⟨s.sp.val + 1, by omega⟩ } := by
  unfold State.push at h
  split at h
  · next hlt => exact ⟨hlt, (Option.some.inj h).symm⟩
  · simp at h

theorem State.push_eq_none {s : State} {w : Word} : s.push w = none ↔ s.sp.val = 16 := by
  unfold State.push
  split <;> simp <;> omega

/-- A pop reads the topmost entry, where there is one. -/
theorem State.popPc_eq_some {s t : State} (h : s.popPc = some t) :
    ∃ hpos : s.sp.val - 1 < 16, s.sp.val ≠ 0 ∧
      t = { s with sp := ⟨s.sp.val - 1, by omega⟩, pc := s.stack[s.sp.val - 1] } := by
  unfold State.popPc at h
  split at h
  · simp at h
  · next hne => exact ⟨by omega, hne, (Option.some.inj h).symm⟩

theorem State.popPc_eq_none {s : State} : s.popPc = none ↔ s.sp.val = 0 := by
  unfold State.popPc
  split <;> simp_all

theorem State.keyAt_of_lt {s : State} {b : Byte} (h : b.toNat < 16) : s.keyAt b = some s.key[b.toNat] := by
  simp [State.keyAt, h]

theorem State.keyAt_eq_none {s : State} {b : Byte} : s.keyAt b = none ↔ 15 < b.toNat := by
  simp [State.keyAt]; omega

/-- The least pressed key, if the scan finds one. -/
theorem State.leastKey_eq_some {s : State} {k : Nat} (h : s.leastKey = some k) :
    ∃ hk : k < 16, s.key[k] = true ∧ ∀ j (hj : j < k), s.key[j] = false := by
  unfold State.leastKey at h
  rw [List.findIdx?_eq_some_iff_getElem] at h
  obtain ⟨hk, hp, hmin⟩ := h
  have hk' : k < 16 := by simpa using hk
  refine ⟨hk', by simpa using hp, fun j hj => ?_⟩
  simpa using hmin j hj

theorem State.leastKey_eq_none {s : State} : s.leastKey = none ↔ ∀ k : Fin 16, s.key[k] = false := by
  unfold State.leastKey
  rw [List.findIdx?_eq_none_iff]
  constructor
  · intro h k
    exact h _ (by simp)
  · intro h b hb
    obtain ⟨k, hk, e⟩ := List.getElem_of_mem hb
    have hk' : k < 16 := by simpa using hk
    rw [← e]
    simpa using h ⟨k, hk'⟩

theorem State.skipIf_cases (s : State) (c : Bool) :
    s.skipIf c = s.setPc (if c then s.pc + 2 else s.pc) := by
  cases c <;> rfl

/-- The flag bytes are 0 or 1. -/
theorem flagByte_toNat (c : Bool) : (flagByte c).toNat = if c then 1 else 0 := by cases c <;> rfl

end Sys2Proof.Machine
end

