-- ==== Sys2Proof/Laws/Exec.lean ====
section
/-! SUPPORT. Everything executing an instruction can do, said once: a proof about any next state takes its cases. -/

namespace Sys2Proof.Machine

/-- The next states of each instruction, each with the condition it comes under. -/
inductive Effect : Instr → State → State → Prop where
  | nop (s) : Effect .nop s s
  | cls (s) : Effect .cls s (s.setDisp Display.clear)
  | ret (s : State) (hk : s.sp.val - 1 < 16) (h : s.sp.val ≠ 0) :
      Effect .ret s { s with sp := ⟨s.sp.val - 1, by omega⟩, pc := s.stack[s.sp.val - 1] }
  | retFault (s : State) (h : s.sp.val = 0) : Effect .ret s (s.raiseIn .stackUnderflow .ret)
  | jp (s nnn) : Effect (.jp nnn) s (s.setPc (zext16 nnn))
  | call (s : State) (nnn) (h : s.sp.val < 16) :
      Effect (.call nnn) s
        { s with stack := s.stack.set s.sp.val s.pc h, sp := ⟨s.sp.val + 1, by omega⟩, pc := zext16 nnn }
  | callFault (s : State) (nnn) (h : s.sp.val = 16) :
      Effect (.call nnn) s (s.raiseIn .stackOverflow (.call nnn))
  | seImm (s x nn) : Effect (.seImm x nn) s (s.skipIf (s.readV x == nn))
  | sneImm (s x nn) : Effect (.sneImm x nn) s (s.skipIf (s.readV x != nn))
  | seReg (s x y) : Effect (.seReg x y) s (s.skipIf (s.readV x == s.readV y))
  | ldImm (s x nn) : Effect (.ldImm x nn) s (s.writeV x nn)
  | addImm (s x nn) : Effect (.addImm x nn) s (s.writeV x (s.readV x + nn))
  | ldReg (s x y) : Effect (.ldReg x y) s (s.writeV x (s.readV y))
  | orReg (s x y) : Effect (.orReg x y) s (s.writeV x (s.readV x ||| s.readV y))
  | andReg (s x y) : Effect (.andReg x y) s (s.writeV x (s.readV x &&& s.readV y))
  | xorReg (s x y) : Effect (.xorReg x y) s (s.writeV x (s.readV x ^^^ s.readV y))
  | addReg (s x y) : Effect (.addReg x y) s
      ((s.writeV x (BitVec.ofNat 8 ((s.readV x).toNat + (s.readV y).toNat))).setFlag
        (carryFlag (s.readV x) (s.readV y)))
  | subReg (s x y) : Effect (.subReg x y) s
      ((s.writeV x (s.readV x - s.readV y)).setFlag (noBorrowFlag (s.readV x) (s.readV y)))
  | shr (s x y) : Effect (.shr x y) s
      ((s.setFlag (shiftedOutRight (s.readV x))).writeV x
        ((s.setFlag (shiftedOutRight (s.readV x))).readV x >>> 1))
  | subnReg (s x y) : Effect (.subnReg x y) s
      ((s.writeV x (s.readV y - s.readV x)).setFlag (noBorrowFlag (s.readV y) (s.readV x)))
  | shl (s x y) : Effect (.shl x y) s
      ((s.setFlag (shiftedOutLeft (s.readV x))).writeV x
        ((s.setFlag (shiftedOutLeft (s.readV x))).readV x <<< 1))
  | sneReg (s x y) : Effect (.sneReg x y) s (s.skipIf (s.readV x != s.readV y))
  | ldI (s nnn) : Effect (.ldI nnn) s (s.setI (zext16 nnn))
  | jpV0 (s nnn) : Effect (.jpV0 nnn) s (s.setPc (BitVec.ofNat 16 ((s.readV 0).toNat + nnn.toNat)))
  | rnd (s x nn) : Effect (.rnd x nn) s (s.consumeRandom.writeV x (s.drawRandom &&& nn))
  | drw (s : State) (x y n) (h : s.dataInRange n.toNat = true) (d : Display × Bool)
      (hd : d = drawRows (s.readV x).toNat (s.readV y).toNat (s.loadData n.toNat) (s.disp, false)) :
      Effect (.drw x y n) s ((s.setDisp d.1).setFlag (collisionFlag d.2))
  | drwFault (s : State) (x y n) (h : ¬ s.dataInRange n.toNat = true) :
      Effect (.drw x y n) s (s.raiseIn .memoryOutOfRange (.drw x y n))
  | skp (s x pressed) (h : s.keyAt (s.readV x) = some pressed) : Effect (.skp x) s (s.skipIf pressed)
  | skpFault (s : State) (x) (h : 15 < (s.readV x).toNat) :
      Effect (.skp x) s (s.raiseIn .keyIndexOutOfRange (.skp x))
  | sknp (s x pressed) (h : s.keyAt (s.readV x) = some pressed) : Effect (.sknp x) s (s.skipIf (!pressed))
  | sknpFault (s : State) (x) (h : 15 < (s.readV x).toNat) :
      Effect (.sknp x) s (s.raiseIn .keyIndexOutOfRange (.sknp x))
  | ldVxDt (s x) : Effect (.ldVxDt x) s (s.writeV x s.dt)
  | ldVxK (s x k) (h : s.leastKey = some k) : Effect (.ldVxK x) s (s.writeV x (BitVec.ofNat 8 k))
  | ldVxKWait (s x) (h : s.leastKey = none) : Effect (.ldVxK x) s s.rewind
  | ldDtVx (s x) : Effect (.ldDtVx x) s (s.setDt (s.readV x))
  | ldStVx (s x) : Effect (.ldStVx x) s (s.setSt (s.readV x))
  | addI (s x) : Effect (.addI x) s (s.setI (BitVec.ofNat 16 (s.i.toNat + (s.readV x).toNat)))
  | ldF (s x) : Effect (.ldF x) s
      (s.setI (BitVec.ofNat 16 (Config.fontBase + Config.glyphBytes * (s.readV x).toNat)))
  | ldB (s : State) (x) (h : s.dataInRange 3 = true) : Effect (.ldB x) s (s.storeData (bcdDigits (s.readV x)))
  | ldBFault (s : State) (x) (h : ¬ s.dataInRange 3 = true) :
      Effect (.ldB x) s (s.raiseIn .memoryOutOfRange (.ldB x))
  | ldMemVx (s : State) (x : Reg) (h : s.dataInRange (x.toNat + 1) = true) :
      Effect (.ldMemVx x) s (s.storeData (s.regsUpTo x))
  | ldMemVxFault (s : State) (x : Reg) (h : ¬ s.dataInRange (x.toNat + 1) = true) :
      Effect (.ldMemVx x) s (s.raiseIn .memoryOutOfRange (.ldMemVx x))
  | ldVxMem (s : State) (x : Reg) (h : s.dataInRange (x.toNat + 1) = true) :
      Effect (.ldVxMem x) s (s.loadRegs x)
  | ldVxMemFault (s : State) (x : Reg) (h : ¬ s.dataInRange (x.toNat + 1) = true) :
      Effect (.ldVxMem x) s (s.raiseIn .memoryOutOfRange (.ldVxMem x))

/-! The instructions with more than one case, one lemma each. -/

theorem execRet_effect {s t : State} (h : execRet s = .next t) : Effect .ret s t := by
  unfold execRet at h
  split at h <;> cases h
  · next hp =>
    obtain ⟨hk, hne, rfl⟩ := State.popPc_eq_some hp
    exact .ret s hk hne
  · next hp => exact .retFault s (State.popPc_eq_none.mp hp)

theorem execCall_effect {nnn : Addr} {s t : State} (h : execCall nnn s = .next t) : Effect (.call nnn) s t := by
  unfold execCall at h
  split at h <;> cases h
  · next hp =>
    obtain ⟨hlt, rfl⟩ := State.push_eq_some hp
    exact .call s nnn hlt
  · next hp => exact .callFault s nnn (State.push_eq_none.mp hp)

theorem execDrw_effect {x y : Reg} {n : Nibble} {s t : State} (h : execDrw x y n s = .next t) :
    Effect (.drw x y n) s t := by
  unfold execDrw at h
  split at h <;> cases h
  · next hr => exact .drw s x y n hr _ rfl
  · next hr => exact .drwFault s x y n hr

theorem execSkp_effect {x : Reg} {s t : State} (h : execSkp x s = .next t) : Effect (.skp x) s t := by
  unfold execSkp at h
  split at h <;> cases h
  · next hk => exact .skp s x _ hk
  · next hk => exact .skpFault s x (State.keyAt_eq_none.mp hk)

theorem execSknp_effect {x : Reg} {s t : State} (h : execSknp x s = .next t) : Effect (.sknp x) s t := by
  unfold execSknp at h
  split at h <;> cases h
  · next hk => exact .sknp s x _ hk
  · next hk => exact .sknpFault s x (State.keyAt_eq_none.mp hk)

theorem execLdVxK_effect {x : Reg} {s t : State} (h : execLdVxK x s = .next t) : Effect (.ldVxK x) s t := by
  unfold execLdVxK at h
  split at h <;> cases h
  · next hk => exact .ldVxK s x _ hk
  · next hk => exact .ldVxKWait s x hk

theorem execLdB_effect {x : Reg} {s t : State} (h : execLdB x s = .next t) : Effect (.ldB x) s t := by
  unfold execLdB at h
  split at h <;> cases h
  · next hr => exact .ldB s x hr
  · next hr => exact .ldBFault s x hr

theorem execLdMemVx_effect {x : Reg} {s t : State} (h : execLdMemVx x s = .next t) : Effect (.ldMemVx x) s t := by
  unfold execLdMemVx at h
  split at h <;> cases h
  · next hr => exact .ldMemVx s x hr
  · next hr => exact .ldMemVxFault s x hr

theorem execLdVxMem_effect {x : Reg} {s t : State} (h : execLdVxMem x s = .next t) : Effect (.ldVxMem x) s t := by
  unfold execLdVxMem at h
  split at h <;> cases h
  · next hr => exact .ldVxMem s x hr
  · next hr => exact .ldVxMemFault s x hr

/-- Every next state an instruction answers is one of its effects. -/
theorem exec_effect {i : Instr} {s t : State} (h : exec i s = .next t) : Effect i s t := by
  cases i with
  | ret => exact execRet_effect h
  | call nnn => exact execCall_effect h
  | drw x y n => exact execDrw_effect h
  | skp x => exact execSkp_effect h
  | sknp x => exact execSknp_effect h
  | ldVxK x => exact execLdVxK_effect h
  | ldB x => exact execLdB_effect h
  | ldMemVx x => exact execLdMemVx_effect h
  | ldVxMem x => exact execLdVxMem_effect h
  | _ => cases h; constructor

end Sys2Proof.Machine
end

