-- ==== Sys2Proof/Laws/PerInstr.lean ====
section
/-! SUPPORT. Facts said of every instruction, one lemma per constructor (LAWS.json). -/

/-! ### The shape of a format's word, in the terms of 30_encoding.md R77 -/

namespace Sys2Proof

theorem wellFormed_formatNNN (d : Nibble) (nnn : Addr)
    (h : d.toNat ≠ 0 ∧ d.toNat ≠ 5 ∧ d.toNat ≠ 8 ∧ d.toNat ≠ 9 ∧ d.toNat ≠ 14 ∧ d.toNat ≠ 15) :
    wellFormedWord (formatNNN d nnn) = true := by
  have e : (formatNNN d nnn).toNat / 0x1000 = d.toNat := by rw [formatNNN_toNat]; omega
  simp only [wellFormedWord, e]
  split <;> simp_all

theorem wellFormed_formatXNN (d : Nibble) (x : Reg) (nn : Byte)
    (h : d.toNat ≠ 0 ∧ d.toNat ≠ 5 ∧ d.toNat ≠ 8 ∧ d.toNat ≠ 9 ∧ d.toNat ≠ 14 ∧ d.toNat ≠ 15) :
    wellFormedWord (formatXNN d x nn) = true := by
  have e : (formatXNN d x nn).toNat / 0x1000 = d.toNat := by rw [formatXNN_toNat]; omega
  simp only [wellFormedWord, e]
  split <;> simp_all

theorem wellFormed_formatXNN_low (d : Nibble) (x : Reg) (nn : Byte)
    (h : (d.toNat = 14 ∧ wellFormedE nn.toNat = true) ∨ (d.toNat = 15 ∧ wellFormedF nn.toNat = true)) :
    wellFormedWord (formatXNN d x nn) = true := by
  have e : (formatXNN d x nn).toNat / 0x1000 = d.toNat := by rw [formatXNN_toNat]; omega
  have l : (formatXNN d x nn).toNat % 256 = nn.toNat % 256 := by rw [formatXNN_toNat]; omega
  obtain ⟨hd, hl⟩ | ⟨hd, hl⟩ := h
  · rw [hd] at e
    simpa [wellFormedWord, e, wellFormedE, l] using hl
  · rw [hd] at e
    simpa [wellFormedWord, e, wellFormedF, l] using hl

theorem wellFormed_formatXYN (d : Nibble) (x y : Reg) (n : Nibble)
    (h : ((d.toNat = 5 ∨ d.toNat = 9) ∧ n.toNat = 0) ∨ (d.toNat = 8 ∧ wellFormed8 n.toNat = true) ∨
      d.toNat = 13) :
    wellFormedWord (formatXYN d x y n) = true := by
  have e : (formatXYN d x y n).toNat / 0x1000 = d.toNat := by rw [formatXYN_toNat]; omega
  have l : (formatXYN d x y n).toNat % 16 = n.toNat % 16 := by rw [formatXYN_toNat]; omega
  obtain ⟨hd | hd, hn⟩ | ⟨hd, hn⟩ | hd := h
  · rw [hd] at e; simp [wellFormedWord, e, wellFormed59, l, hn]
  · rw [hd] at e; simp [wellFormedWord, e, wellFormed59, l, hn]
  · rw [hd] at e; simpa [wellFormedWord, e, wellFormed8, l] using hn
  · rw [hd] at e; simp [wellFormedWord, e]

end Sys2Proof

/-! ### Every instruction's word is legal by the opcode map of R77 -/

namespace Sys2Proof.Laws.EncodesLegalWord

def Statement (i : Instr) : Prop := wellFormedWord (encode i) = true

theorem nop : Statement (.nop) :=
  rfl

theorem cls : Statement (.cls) :=
  rfl

theorem ret : Statement (.ret) :=
  rfl

theorem jp (nnn : Addr) : Statement (.jp nnn) :=
  wellFormed_formatNNN _ _ (by decide)

theorem call (nnn : Addr) : Statement (.call nnn) :=
  wellFormed_formatNNN _ _ (by decide)

theorem seImm (x : Reg) (nn : Byte) : Statement (.seImm x nn) :=
  wellFormed_formatXNN _ _ _ (by decide)

theorem sneImm (x : Reg) (nn : Byte) : Statement (.sneImm x nn) :=
  wellFormed_formatXNN _ _ _ (by decide)

theorem seReg (x : Reg) (y : Reg) : Statement (.seReg x y) :=
  wellFormed_formatXYN _ _ _ _ (by decide)

theorem ldImm (x : Reg) (nn : Byte) : Statement (.ldImm x nn) :=
  wellFormed_formatXNN _ _ _ (by decide)

theorem addImm (x : Reg) (nn : Byte) : Statement (.addImm x nn) :=
  wellFormed_formatXNN _ _ _ (by decide)

theorem ldReg (x : Reg) (y : Reg) : Statement (.ldReg x y) :=
  wellFormed_formatXYN _ _ _ _ (by decide)

theorem orReg (x : Reg) (y : Reg) : Statement (.orReg x y) :=
  wellFormed_formatXYN _ _ _ _ (by decide)

theorem andReg (x : Reg) (y : Reg) : Statement (.andReg x y) :=
  wellFormed_formatXYN _ _ _ _ (by decide)

theorem xorReg (x : Reg) (y : Reg) : Statement (.xorReg x y) :=
  wellFormed_formatXYN _ _ _ _ (by decide)

theorem addReg (x : Reg) (y : Reg) : Statement (.addReg x y) :=
  wellFormed_formatXYN _ _ _ _ (by decide)

theorem subReg (x : Reg) (y : Reg) : Statement (.subReg x y) :=
  wellFormed_formatXYN _ _ _ _ (by decide)

theorem shr (x : Reg) (y : Reg) : Statement (.shr x y) :=
  wellFormed_formatXYN _ _ _ _ (by decide)

theorem subnReg (x : Reg) (y : Reg) : Statement (.subnReg x y) :=
  wellFormed_formatXYN _ _ _ _ (by decide)

theorem shl (x : Reg) (y : Reg) : Statement (.shl x y) :=
  wellFormed_formatXYN _ _ _ _ (by decide)

theorem sneReg (x : Reg) (y : Reg) : Statement (.sneReg x y) :=
  wellFormed_formatXYN _ _ _ _ (by decide)

theorem ldI (nnn : Addr) : Statement (.ldI nnn) :=
  wellFormed_formatNNN _ _ (by decide)

theorem jpV0 (nnn : Addr) : Statement (.jpV0 nnn) :=
  wellFormed_formatNNN _ _ (by decide)

theorem rnd (x : Reg) (nn : Byte) : Statement (.rnd x nn) :=
  wellFormed_formatXNN _ _ _ (by decide)

theorem drw (x : Reg) (y : Reg) (n : Nibble) : Statement (.drw x y n) :=
  wellFormed_formatXYN _ _ _ _ (.inr (.inr rfl))

theorem skp (x : Reg) : Statement (.skp x) :=
  wellFormed_formatXNN_low _ _ _ (by decide)

theorem sknp (x : Reg) : Statement (.sknp x) :=
  wellFormed_formatXNN_low _ _ _ (by decide)

theorem ldVxDt (x : Reg) : Statement (.ldVxDt x) :=
  wellFormed_formatXNN_low _ _ _ (by decide)

theorem ldVxK (x : Reg) : Statement (.ldVxK x) :=
  wellFormed_formatXNN_low _ _ _ (by decide)

theorem ldDtVx (x : Reg) : Statement (.ldDtVx x) :=
  wellFormed_formatXNN_low _ _ _ (by decide)

theorem ldStVx (x : Reg) : Statement (.ldStVx x) :=
  wellFormed_formatXNN_low _ _ _ (by decide)

theorem addI (x : Reg) : Statement (.addI x) :=
  wellFormed_formatXNN_low _ _ _ (by decide)

theorem ldF (x : Reg) : Statement (.ldF x) :=
  wellFormed_formatXNN_low _ _ _ (by decide)

theorem ldB (x : Reg) : Statement (.ldB x) :=
  wellFormed_formatXNN_low _ _ _ (by decide)

theorem ldMemVx (x : Reg) : Statement (.ldMemVx x) :=
  wellFormed_formatXNN_low _ _ _ (by decide)

theorem ldVxMem (x : Reg) : Statement (.ldVxMem x) :=
  wellFormed_formatXNN_low _ _ _ (by decide)

end Sys2Proof.Laws.EncodesLegalWord
end

