-- ==== Sys2Proof/Laws/Step.lean ====
section
/-! SUPPORT. What the host's port, a transaction and a step can do, said once. -/

namespace Sys2Proof.Machine

/-! ### The host's port -/

@[simp] theorem HostPort.next_of_cons {p : HostPort} {x : Transaction} {rest : List Transaction}
    (h : p.inputs = x :: rest) : p.next = x := by
  simp [HostPort.next, h]

@[simp] theorem HostPort.taken_of_cons {p : HostPort} {x : Transaction} {rest : List Transaction}
    (h : p.inputs = x :: rest) : p.taken = { p with inputs := rest } := by
  simp [HostPort.taken, h]

@[simp] theorem HostPort.taken_random (p : HostPort) : p.taken.random = p.random := by
  unfold HostPort.taken; split <;> rfl

@[simp] theorem HostPort.taken_draws (p : HostPort) : p.taken.draws = p.draws := by
  unfold HostPort.taken; split <;> rfl

@[simp] theorem HostPort.taken_beyond (p : HostPort) : p.taken.beyond = p.beyond := by
  unfold HostPort.taken; split <;> rfl

/-! ### Reset -/

/-- With the default FONT, RESET gives the state the machine starts in, but for the host's port. -/
theorem State.resetWith_default : State.resetWith defaultFont HostPort.reset = State.reset := by decide +kernel

/-- Memory after RESET holds the font. -/
theorem Memory.read_ofFont (f : Config.Font) (k : Fin 80) : (Memory.ofFont f).read k.val = f[k] := by
  have h := Memory.read_writeBytes_inside f.toList [] 0 k.val (by simp) (by simp)
  simpa [Memory.ofFont] using h

/-- Memory after RESET is 0 outside the font. -/
theorem Memory.read_ofFont_above (f : Config.Font) (a : Nat) (h : 80 ≤ a) : (Memory.ofFont f).read a = 0 := by
  rw [Memory.ofFont, Memory.read_writeBytes_outside _ _ _ _ (by simp; omega)]
  simp [Memory.read, Memory.resetByte]; omega

/-- Memory after RESET is canonical. -/
theorem Memory.wf_ofFont (f : Config.Font) : (Memory.ofFont f).wf = true := Memory.wf_writeBytes rfl _ _

/-! ### Transactions and steps -/

/-- A transaction that moves is one the phase gives a move. -/
theorem State.transactIfMove_eq_next {s t : State} {x : Transaction} (h : s.transactIfMove x = .next t) :
    s.phase.stuck x = none ∧ s.transact x = .next t := by
  unfold State.transactIfMove at h
  split at h
  · cases h
  · next hs => exact ⟨hs, h⟩

/-- A step that moves performs the host's next transaction in the state with that transaction taken. -/
theorem step_eq_next {s t : State} (h : step s = .next t) :
    s.phase.stuck s.port.next = none ∧ (s.setPort s.port.taken).transact s.port.next = .next t :=
  State.transactIfMove_eq_next h

/-- A step on a transaction that has a move. -/
theorem step_of_move {s : State} {x : Transaction} (hx : s.port.next = x) (h : s.phase.stuck x = none) :
    step s = (s.setPort s.port.taken).transact x := by
  subst hx
  simp [step, State.transactIfMove, h]

/-- A step on a transaction that has none. -/
theorem step_of_stuck {s : State} {x : Transaction} {f : Fault} (hx : s.port.next = x)
    (h : s.phase.stuck x = some f) : step s = .fault f := by
  subst hx
  simp [step, State.transactIfMove, h]

/-- A phase with a move for a CYCLE is Loaded or Running. -/
theorem stuck_cycle_eq_none {p : Phase} {r : Option Byte} :
    p.stuck (.cycle r) = none ↔ p = .loaded ∨ p = .running := by
  cases p <;> simp [Phase.stuck]

/-- In Halted nothing moves. -/
theorem stuck_halted (x : Transaction) : Phase.stuck .halted x = some .halted := by
  cases x <;> rfl

/-- No phase but Halted stops a transaction other than CYCLE and LOAD. -/
theorem ne_halted_of_stuck_eq_none {p : Phase} {x : Transaction} (h : p.stuck x = none) : p ≠ .halted := by
  rintro rfl
  rw [stuck_halted] at h
  cases h

/-- What a CYCLE does: a fetch fault, a decode fault, or the decoded instruction's execution. -/
theorem State.cycle_cases (s : State) (r : Option Byte) :
    (s.fetch16 s.pc = none ∧ s.cycle r = .next (s.raise .fetchOutOfRange s.pc none)) ∨
    (∃ op, s.fetch16 s.pc = some op ∧ decodeWord op = none ∧
      s.cycle r = .next (s.raise .unimplementedOpcode s.pc (some op))) ∨
    (∃ op i, s.fetch16 s.pc = some op ∧ decodeWord op = some i ∧ s.cycle r = exec i (s.beginCycle r)) := by
  unfold State.cycle
  cases hf : s.fetch16 s.pc with
  | none => exact .inl ⟨rfl, rfl⟩
  | some op =>
    cases hd : decodeWord op with
    | none => exact .inr (.inl ⟨op, rfl, hd, by simp [hd]⟩)
    | some i => exact .inr (.inr ⟨op, i, rfl, hd, by simp [hd]⟩)

end Sys2Proof.Machine
end

