-- ==== Sys2Proof/Tests/Slice0.lean ====
section
/-! SUPPORT. Tests. Expected results are the spec's: the encodings of 30_encoding.md R76, the vectors of
95_test_vectors.md (named in each comment). Then, for each statement with hypotheses, a witness that meets them. -/

namespace Sys2Proof.Tests

open Sys2Proof Sys2Proof.Machine

/-! ### WellFormed: each check refuses an ill-formed word (R77, E6 to E10) -/

theorem test_wellFormed0_refuses : wellFormedWord 0x0123 = false ∧ wellFormedWord 0x00E1 = false := by decide
theorem test_wellFormed59_refuses : wellFormedWord 0x5121 = false ∧ wellFormedWord 0x912F = false := by decide
theorem test_wellFormed8_refuses : wellFormedWord 0x8008 = false ∧ wellFormedWord 0x800F = false := by decide
theorem test_wellFormedE_refuses : wellFormedWord 0xE09F = false := by decide
theorem test_wellFormedF_refuses : wellFormedWord 0xF0FF = false ∧ wellFormedWord 0xF030 = false := by decide

/-! ### Decode: every constructor, by a word written out from its row of R76 -/

theorem test_decode_family_0 :
    decodeWord 0x0000 = some .nop ∧ decodeWord 0x00E0 = some .cls ∧ decodeWord 0x00EE = some .ret := by decide

theorem test_decode_jumps :
    decodeWord 0b0001101010111100 = some (.jp 0xABC) ∧ decodeWord 0b0010001100000000 = some (.call 0x300) ∧
    decodeWord 0b1010000100100011 = some (.ldI 0x123) ∧ decodeWord 0b1011111100000001 = some (.jpV0 0xF01) := by
  decide

theorem test_decode_immediates :
    decodeWord 0b0011001101000010 = some (.seImm 0x3 0x42) ∧
    decodeWord 0b0100001101000010 = some (.sneImm 0x3 0x42) ∧
    decodeWord 0b0110101010011101 = some (.ldImm 0xA 0x9D) ∧
    decodeWord 0b0111000000000001 = some (.addImm 0x0 0x01) ∧
    decodeWord 0b1100001100001111 = some (.rnd 0x3 0x0F) := by decide

theorem test_decode_register_skips :
    decodeWord 0b0101000100100000 = some (.seReg 0x1 0x2) ∧
    decodeWord 0b1001001000110000 = some (.sneReg 0x2 0x3) := by decide

theorem test_decode_family_8 :
    decodeWord 0b1000001011000000 = some (.ldReg 0x2 0xC) ∧ decodeWord 0b1000001011000001 = some (.orReg 0x2 0xC) ∧
    decodeWord 0b1000001011000010 = some (.andReg 0x2 0xC) ∧ decodeWord 0b1000001011000011 = some (.xorReg 0x2 0xC) ∧
    decodeWord 0b1000001011000100 = some (.addReg 0x2 0xC) ∧ decodeWord 0b1000001011000101 = some (.subReg 0x2 0xC) ∧
    decodeWord 0b1000001011000110 = some (.shr 0x2 0xC) ∧ decodeWord 0b1000001011000111 = some (.subnReg 0x2 0xC) ∧
    decodeWord 0b1000001011001110 = some (.shl 0x2 0xC) := by decide

theorem test_decode_draw : decodeWord 0b1101000000010101 = some (.drw 0x0 0x1 0x5) := by decide

theorem test_decode_families_E_F :
    decodeWord 0b1110010110011110 = some (.skp 0x5) ∧ decodeWord 0b1110010110100001 = some (.sknp 0x5) ∧
    decodeWord 0b1111000100000111 = some (.ldVxDt 0x1) ∧ decodeWord 0b1111000000001010 = some (.ldVxK 0x0) ∧
    decodeWord 0b1111000000010101 = some (.ldDtVx 0x0) ∧ decodeWord 0b1111000000011000 = some (.ldStVx 0x0) ∧
    decodeWord 0b1111000100011110 = some (.addI 0x1) ∧ decodeWord 0b1111001000101001 = some (.ldF 0x2) ∧
    decodeWord 0b1111101000110011 = some (.ldB 0xA) ∧ decodeWord 0b1111000101010101 = some (.ldMemVx 0x1) ∧
    decodeWord 0b1111001001100101 = some (.ldVxMem 0x2) := by decide

theorem test_decode_bytes : decode [0x12, 0x34, 0x56] = .ok (.jp 0x234, [0x56]) ∧
    decode [0x12] = .error .truncated ∧ decode [0x51, 0x21] = .error (.unimplementedOpcode 0x5121) := by decide

/-! ### Running one step -/

/-- Does the step answer a next state with the property? -/
def stepsTo (s : State) (p : State → Bool) : Bool :=
  match step s with
  | .next t => p t
  | _ => false

/-- Does the execution answer a next state with the property? -/
def execsTo (i : Instr) (s : State) (p : State → Bool) : Bool :=
  match exec i s with
  | .next t => p t
  | _ => false

/-- The word as the first instruction, in the state given. -/
def runs (s : State) (w : Nat) (p : State → Bool) : Bool := stepsTo (s.withFetchWord 16 w) p

def start : State := State.reset
def withV (x : Reg) (b : Byte) (s : State) : State := s.writeV x b
def withByte (a : Nat) (b : Byte) (s : State) : State := s.setMem (s.mem.write a b)

/-- F1, E11 -/
theorem test_nop : runs start 0x0000 (fun t => t.pc == 0x202) = true := by decide
/-- G1 -/
theorem test_cls : runs (start.setDisp (Vector.replicate 32 7#64)) 0x00E0
    (fun t => t.disp == Vector.replicate 32 0#64) = true := by decide
/-- F4 -/
theorem test_call : runs start 0x2300
    (fun t => t.stack[0] == 0x202 && t.sp == 1 && t.pc == 0x300) = true := by decide
/-- F5 -/
theorem test_call_overflow : runs { start with sp := 16 } 0x2300
    (fun t => t.fault == some ⟨.stackOverflow, 0x200, some 0x2300⟩ && t.phase == .halted && t.sp == 16 &&
      t.pc == 0x200) = true := by decide
/-- F6 -/
theorem test_ret : runs { start with sp := 1, stack := start.stack.set 0 0x206 } 0x00EE
    (fun t => t.sp == 0 && t.pc == 0x206 && t.stack[0] == 0x206) = true := by decide
/-- F7 -/
theorem test_ret_underflow : runs start 0x00EE
    (fun t => t.fault == some ⟨.stackUnderflow, 0x200, some 0x00EE⟩) = true := by decide
/-- F3 -/
theorem test_jp : runs start 0x1201 (fun t => t.pc == 0x201) = true := by decide
/-- F18 -/
theorem test_jpV0 : runs (withV 0 0xFF start) 0xBF01 (fun t => t.pc == 0x1000) = true := by decide
/-- F8 -/
theorem test_seImm : runs (withV 3 0x42 start) 0x3342 (fun t => t.pc == 0x204) = true := by decide
/-- F11 -/
theorem test_sneImm : runs (withV 3 0x41 start) 0x4342 (fun t => t.pc == 0x204) = true := by decide
/-- F13 -/
theorem test_seReg : runs (withV 1 7 (withV 2 8 start)) 0x5120 (fun t => t.pc == 0x202) = true := by decide
/-- F15 -/
theorem test_sneReg : runs (withV 1 7 (withV 2 8 start)) 0x9120 (fun t => t.pc == 0x204) = true := by decide
/-- A1 -/
theorem test_ldImm : runs start 0x6042 (fun t => t.readV 0 == 0x42) = true := by decide
/-- A3 -/
theorem test_addImm : runs (withV 0 0xFF (withV VF 7 start)) 0x7001
    (fun t => t.readV 0 == 0x00 && t.readV VF == 0x07) = true := by decide
/-- A4 -/
theorem test_ldReg : runs (withV 1 0x22 start) 0x8010 (fun t => t.readV 0 == 0x22) = true := by decide
/-- A5 -/
theorem test_orReg : runs (withV 0 0xF0 (withV 1 0x0F start)) 0x8011 (fun t => t.readV 0 == 0xFF) = true := by
  decide
/-- A6 -/
theorem test_andReg : runs (withV 0 0xF0 (withV 1 0x3C start)) 0x8012 (fun t => t.readV 0 == 0x30) = true := by
  decide
/-- A7 -/
theorem test_xorReg : runs (withV 0 0xF0 (withV 1 0x3C start)) 0x8013 (fun t => t.readV 0 == 0xCC) = true := by
  decide
/-- A12 -/
theorem test_addReg : runs (withV 0 0x80 (withV 1 0x80 start)) 0x8014
    (fun t => t.readV 0 == 0x00 && t.readV VF == 1) = true := by decide
/-- A39 -/
theorem test_addReg_vf : runs (withV VF 0xFF (withV 1 0x01 start)) 0x8F14 (fun t => t.readV VF == 1) = true := by
  decide
/-- A17 -/
theorem test_subReg : runs (withV 0 0x00 (withV 1 0x01 start)) 0x8015
    (fun t => t.readV 0 == 0xFF && t.readV VF == 0) = true := by decide
/-- A21 -/
theorem test_subnReg : runs (withV 0 0x05 (withV 1 0x03 start)) 0x8017
    (fun t => t.readV 0 == 0xFE && t.readV VF == 0) = true := by decide
/-- A24 -/
theorem test_shr : runs (withV 0 0x05 (withV 1 0xFF start)) 0x8016
    (fun t => t.readV 0 == 0x02 && t.readV VF == 1) = true := by decide
/-- A45 -/
theorem test_shr_vf : runs (withV VF 0x03 start) 0x8F16 (fun t => t.readV VF == 0) = true := by decide
/-- A29 -/
theorem test_shl : runs (withV 0 0x81 (withV 1 0xFF start)) 0x801E
    (fun t => t.readV 0 == 0x02 && t.readV VF == 1) = true := by decide
/-- A47 -/
theorem test_shl_vf : runs (withV VF 0x81 start) 0x8F1E (fun t => t.readV VF == 0x02) = true := by decide
/-- A36: the host's byte is A7 -/
theorem test_rnd : stepsTo ((start.withFetchWord 16 0xC30F).setInputs [.cycle (some 0xA7)])
    (fun t => t.readV 3 == 0x07) = true := by decide
/-- A37: whatever the open byte is -/
theorem test_rnd_open : runs start 0xC300 (fun t => t.pc == 0x202) = true := by decide
/-- M1 -/
theorem test_ldI : runs start 0xA123 (fun t => t.i == 0x0123) = true := by decide
/-- M4 -/
theorem test_addI : runs (withV 1 1 (start.setI 0xFFFF)) 0xF11E (fun t => t.i == 0) = true := by decide
/-- M7 -/
theorem test_ldF : runs (withV 2 0xFF start) 0xF229 (fun t => t.i == 0x04FB) = true := by decide
/-- M15 -/
theorem test_ldB : runs (withV 0 0xFF (start.setI 0xFFD)) 0xF033
    (fun t => t.mem.read 0xFFD == 2 && t.mem.read 0xFFE == 5 && t.mem.read 0xFFF == 5) = true := by decide
/-- M16 -/
theorem test_ldB_past : runs (start.setI 0xFFE) 0xF033
    (fun t => t.fault == some ⟨.memoryOutOfRange, 0x200, some 0xF033⟩) = true := by decide
/-- M17 -/
theorem test_ldMemVx : runs (withV 0 0x11 (withV 1 0x22 (start.setI 0x300))) 0xF155
    (fun t => t.mem.read 0x300 == 0x11 && t.mem.read 0x301 == 0x22 && t.i == 0x300) = true := by decide
/-- M20 -/
theorem test_ldMemVx_past : runs (start.setI 0xFF1) 0xFF55 (fun t => t.phase == .halted) = true := by
  decide
/-- M21 -/
theorem test_ldVxMem : runs (withByte 0x300 1 (withByte 0x301 5 (withByte 0x302 7 (start.setI 0x300)))) 0xF265
    (fun t => t.readV 0 == 1 && t.readV 1 == 5 && t.readV 2 == 7 && t.i == 0x300) = true := by decide
/-- G2: the wrapped pixels (62,31) (63,31) (4,31) (5,31) (62,0) (5,0), and no other -/
theorem test_drw : runs (withV 0 0x3E (withV 1 0x1F (withByte 0x210 0xC3 (withByte 0x211 0x81
      (start.setI 0x210))))) 0xD012
    (fun t => t.disp == ((Vector.replicate 32 0#64).set 31 (3#64 <<< 62 ||| 3#64 <<< 4)).set 0
        (1#64 <<< 62 ||| 1#64 <<< 5) && t.readV VF == 0) = true := by decide
/-- G8 -/
theorem test_drw_vf_coordinate : runs (withV VF 5 (withByte 0x300 0x80 (start.setI 0x300))) 0xDF11
    (fun t => Display.at t.disp 5 && t.readV VF == 0) = true := by decide
/-- K1 -/
theorem test_skp : runs (withV 5 0xA (start.writeKey 0xA true)) 0xE59E (fun t => t.pc == 0x204) = true := by
  decide
/-- K5 -/
theorem test_skp_past : runs (withV 5 0x10 start) 0xE59E
    (fun t => t.fault == some ⟨.keyIndexOutOfRange, 0x200, some 0xE59E⟩) = true := by decide
/-- K3 -/
theorem test_sknp : runs (withV 5 0xA start) 0xE5A1 (fun t => t.pc == 0x204) = true := by decide
/-- K7 -/
theorem test_ldVxDt : runs (start.setDt 0x3C) 0xF107 (fun t => t.readV 1 == 0x3C && t.dt == 0x3C) = true := by
  decide
/-- K8 -/
theorem test_ldVxK_waits : runs start 0xF30A (fun t => t.pc == 0x200) = true := by decide
/-- K9 -/
theorem test_ldVxK : runs ((start.writeKey 7 true).writeKey 2 true) 0xF30A
    (fun t => t.readV 3 == 2 && t.pc == 0x202) = true := by decide
/-- K11 -/
theorem test_ldDtVx : runs (withV 0 3 start) 0xF015 (fun t => t.dt == 3) = true := by decide
/-- K12 -/
theorem test_ldStVx : runs (withV 0 1 start) 0xF018 (fun t => t.st == 1) = true := by decide

/-- K14: the second of the three ticks -/
theorem test_tick : stepsTo ((start.setDt 4).setSt 1 |>.setInputs [.tick])
    (fun t => t.dt == 3 && t.st == 0 && t.port.response == .beep true) = true := by decide
/-- K17 -/
theorem test_setKey : stepsTo (start.setInputs [.setKey 4 true]) (fun t => t.key[4] && !t.key[3]) = true := by
  decide
/-- L3 -/
theorem test_load : stepsTo (start.setInputs [.load [0x12, 0x00]])
    (fun t => t.mem.read 0x200 == 0x12 && t.mem.read 0x201 == 0x00 && t.phase == .loaded) = true := by decide
/-- R260 with a FONT that is not the default -/
theorem test_reset_other_font : stepsTo ({ start with font := Vector.replicate 80 7 }.setInputs [.reset])
    (fun t => t.mem.read 0 == 7 && t.mem.read 79 == 7 && t.mem.read 80 == 0) = true := by decide +kernel
/-- R40: a free host's transaction is whatever it is -/
theorem test_free_host :
    step start = (start.setPort { start.port with asked := 1 }).transactIfMove (Config.hostTransaction 0) := rfl
/-- E12 -/
theorem test_cycle_before_load : step (start.setInputs [.cycle (some 0)]) = .fault .cycleBeforeLoad := rfl
/-- E3 -/
theorem test_fetch_past : stepsTo ({ start with phase := .running, pc := 0xFFF }.setInputs [.cycle none])
    (fun t => t.fault == some ⟨.fetchOutOfRange, 0xFFF, none⟩ && t.pc == 0xFFF) = true := by decide
/-- E6 -/
theorem test_illegal : runs start 0x0123
    (fun t => t.fault == some ⟨.unimplementedOpcode, 0x200, some 0x0123⟩ && t.pc == 0x200) = true := by
  decide
/-- E5 -/
theorem test_odd_fetch : runs (start.setPc 0x201) 0x6007 (fun t => t.readV 0 == 7 && t.pc == 0x203) = true := by
  decide

/-! ### Witnesses: a state and operands that meet each statement's hypotheses -/

theorem stepsTo_next {s : State} {p : State → Bool} (h : stepsTo s p = true) :
    ∃ t, step s = .next t ∧ p t = true := by
  unfold stepsTo at h
  split at h
  · next t ht => exact ⟨t, ht, h⟩
  · cases h

theorem execsTo_next {i : Instr} {s : State} {p : State → Bool} (h : execsTo i s p = true) :
    ∃ t, exec i s = .next t ∧ p t = true := by
  unfold execsTo at h
  split at h
  · next t ht => exact ⟨t, ht, h⟩
  · cases h

theorem witness_EncodeOfDecodeIsTheWord : decodeWord 0x8AB4 = some (.addReg 0xA 0xB) := by decide

/-- A loaded state with 6A9D at the highest address it can be fetched from. -/
def atTop : State := withByte 0xFFE 0x6A (withByte 0xFFF 0x9D { start with phase := .loaded, pc := 0xFFE })

theorem witness_StepRunsTheFetchedInstruction :
    (atTop.phase = .loaded ∨ atTop.phase = .running) ∧ atTop.pc.toNat + 1 ≤ 0xFFF ∧
    decodeWord (atTop.mem.read atTop.pc.toNat ++ atTop.mem.read (atTop.pc.toNat + 1)) = some (.ldImm 0xA 0x9D) ∧
    (atTop.setInputs [.cycle (some 7)]).port.next = .cycle (some 7) := by decide

theorem witness_FetchIsBigEndianAndFaultsPastMemory :
    (0xFFE#16).toNat + 1 ≤ 0xFFF ∧ ((atTop.setPc 0xFFF).phase = .loaded ∨ (atTop.setPc 0xFFF).phase = .running) ∧
    ((atTop.setPc 0xFFF).setInputs [.cycle (some 7)]).CycleIsNext ∧
    0xFFF < (atTop.setPc 0xFFF).pc.toNat + 1 := ⟨by decide, by decide, ⟨some 7, rfl⟩, by decide⟩

theorem witness_IllegalWordFaults :
    let s := withByte 0x200 0x51 (withByte 0x201 0x21 { start with phase := .running })
    (s.phase = .loaded ∨ s.phase = .running) ∧ (s.setInputs [.cycle none]).CycleIsNext ∧
    s.pc.toNat + 1 ≤ 0xFFF ∧ 0x5121#16 = s.mem.read s.pc.toNat ++ s.mem.read (s.pc.toNat + 1) ∧
    (∀ row ∈ opcodeRows, 0x5121#16 &&& row.mask ≠ row.pattern) :=
  ⟨by decide, ⟨none, rfl⟩, by decide, by decide, by decide⟩

theorem witness_PhaseTableGivesTheMoves :
    (start.setInputs [.tick, .cycle (some 1)]).port.next = .tick ∧
    ∃ t, step ((start.withFetchWord 16 0x0000).setInputs [.cycle (some 1)]) = .next t ∧ t.phase ≠ .halted := by
  obtain ⟨t, ht, h⟩ := stepsTo_next (s := (start.withFetchWord 16 0x0000).setInputs [.cycle (some 1)])
    (p := fun t => t.phase == .running) (by decide)
  exact ⟨by decide, t, ht, by simp at h; simp [h]⟩

theorem witness_NoMoveStopsByName :
    (start.setPhase .halted).phase = .halted ∧
    ((start.setInputs [.cycle none]).phase = .constructed ∧ (start.setInputs [.cycle none]).CycleIsNext) ∧
    ((start.setPhase .loaded).phase = .loaded ∧ ((start.setPhase .loaded).setInputs [.load []]).port.next = .load []) :=
  ⟨by decide, ⟨by decide, ⟨none, rfl⟩⟩, by decide⟩

/-- A queue, a free host, and a host that issues CYCLEs. -/
theorem witness_TheHostsScheduleIsTakenInOrder :
    (start.setInputs [.tick, .reset]).port.inputs = .tick :: [.reset] ∧
    (start.port.inputs = [] ∧ start.port.beyond = .free) ∧
    ((start.withFetchWord 16 0).port.inputs = [] ∧ (start.withFetchWord 16 0).port.beyond = .cycles) := by decide

theorem witness_ResetEstablishesTheResetState :
    atTop.phase ≠ .halted ∧ (atTop.setInputs [.reset, .tick]).port.next = .reset := by decide

theorem witness_LoadPlacesTheProgram :
    ((start.setInputs [.load [0x12]]).port.next = .load [0x12] ∧ start.phase = .constructed) ∧
    (List.replicate 3584 (0#8)).length ≤ 4096 - 0x200 ∧ 4096 - 0x200 < (List.replicate 3585 (0#8)).length ∧
    atTop.phase ≠ .constructed :=
  ⟨by decide, by rw [List.length_replicate], by rw [List.length_replicate]; omega, by decide⟩

theorem witness_TickCountsDownAndBeeps :
    start.phase ≠ .halted ∧ (start.setInputs [.tick]).port.next = .tick ∧
    ((start.setPhase .halted).setInputs [.tick]).port.next = .tick := by decide

theorem witness_SetKeyWritesOneKey :
    start.phase ≠ .halted ∧ (start.setInputs [.setKey 15 true]).port.next = .setKey 15 true := by decide

theorem witness_GetDisplayReturnsThePixels :
    start.phase ≠ .halted ∧ (start.setInputs [.getDisplay]).port.next = .getDisplay := by decide

theorem witness_DrwXorsTheSpriteAndSetsVf :
    ((0#4 : Nibble) = 0 ∨ (start.setI 0xFFFF).i.toNat + (0#4).toNat - 1 ≤ 0xFFF) ∧
    (start.setI 0xFFF).i.toNat + (1#4).toNat - 1 ≤ 0xFFF ∧
    (1 ≤ (2#4).toNat ∧ 0xFFF < (start.setI 0xFFF).i.toNat + (2#4).toNat - 1) := by decide

/-- A state with a one-byte sprite at `I`; the draw sets a pixel. -/
def drawState : State := withByte 0x300 0x80 (start.setI 0x300)

theorem witness_DrwTwiceRestoresTheDisplay :
    ∃ t u : State, exec (.drw 0 0 1) drawState = .next t ∧ drawState.i.toNat + (1#4).toNat - 1 ≤ 0xFFF ∧
      u.disp = t.disp ∧ u.readV 0 = drawState.readV 0 ∧ u.i = drawState.i ∧
      (∀ r, r < (1#4).toNat → u.mem.read (drawState.i.toNat + r) = drawState.mem.read (drawState.i.toNat + r)) ∧
      Display.at drawState.disp 0 = false ∧ Display.at t.disp 0 = true := by
  obtain ⟨t, ht, h⟩ := execsTo_next (i := .drw 0 0 1) (s := drawState)
    (p := fun t => t.readV 0 == drawState.readV 0 && t.i == drawState.i &&
      t.mem == drawState.mem && Display.at t.disp 0) (by decide)
  simp only [Bool.and_eq_true, beq_iff_eq] at h
  obtain ⟨⟨⟨h1, h2⟩, h3⟩, h4⟩ := h
  exact ⟨t, t, ht, by decide, rfl, h1, h2, fun r _ => by rw [h3], by decide, h4⟩

theorem witness_CallPushesTheReturnAddress :
    ({ start with sp := 15 } : State).sp.val < 16 ∧ ({ start with sp := 16 } : State).sp.val = 16 := by decide

theorem witness_RetPopsTheReturnAddress :
    ({ start with sp := 16 } : State).sp.val = (15 : Fin 16).val + 1 ∧ start.sp.val = 0 := by decide

theorem witness_CallAndReturnRoundTrip :
    let s : State := { start with sp := 15, pc := 0x202 }
    s.pc = 0x200 + 2 ∧ s.sp.val = (15 : Fin 16).val ∧
    ∃ t u : State, exec (.call 0x300) s = .next t ∧ u.sp = t.sp ∧ u.stack[15] = t.stack[15] := by
  refine ⟨by decide, by decide, ?_⟩
  obtain ⟨t, ht, -⟩ := execsTo_next (i := .call 0x300) (s := { start with sp := 15, pc := 0x202 })
    (p := fun _ => true) (by decide)
  exact ⟨t, t, ht, rfl, rfl⟩

theorem witness_SkipsOnAnImmediate : start.readV 3 = 0x00 ∧ start.readV 3 ≠ 0x42 := by decide

theorem witness_SkipsOnTwoRegisters :
    start.readV 1 = start.readV 2 ∧ (withV 1 7 start).readV 1 ≠ (withV 1 7 start).readV 2 := by decide

theorem witness_AddWritesSumThenCarry :
    let s := withV 0 0xFF (withV 1 0x01 start)
    (0 : Reg) ≠ VF ∧ 255 < (s.readV 0).toNat + (s.readV 1).toNat ∧
    (s.readV 0).toNat + (s.readV 2).toNat ≤ 255 := by decide

theorem witness_SubAndSubnWriteDifferenceThenNoBorrow :
    let s := withV 0 0x05 (withV 1 0x05 (withV 2 0x06 start))
    (0 : Reg) ≠ VF ∧ (s.readV 1).toNat ≤ (s.readV 0).toNat ∧ (s.readV 0).toNat < (s.readV 2).toNat ∧
    (s.readV 0).toNat ≤ (s.readV 1).toNat ∧ (s.readV 0).toNat < (s.readV 2).toNat := by decide

theorem witness_ShiftsWriteTheBitShiftedOut : (0 : Reg) ≠ VF ∧ (15 : Reg) = VF := by decide

theorem witness_RandomByteGiven :
    (start.beginCycle (some 0xA7)).port.random = some 0xA7 ∧ (0x0F#8).getLsbD 7 = false := by decide

theorem witness_BcdStoresThreeDigits :
    (start.setI 0xFFD).dataAddr 2 ≤ 0xFFF ∧ 0xFFF < (start.setI 0xFFE).dataAddr 2 := by decide

theorem witness_RegisterStoreAndLoad :
    (start.setI 0xFF0).dataAddr (15#4).toNat ≤ 0xFFF ∧ 0xFFF < (start.setI 0xFF1).dataAddr (15#4).toNat ∧
    (0#4).toNat ≤ (15#4).toNat ∧ (0#4).toNat < (15#4).toNat := by decide

theorem witness_AccessPastMemoryFaults :
    (∃ k, k < (2#4).toNat ∧ 0x1000 ≤ (start.setI 0xFFF).i.toNat + k) ∧
    (∃ k, k < 3 ∧ 0x1000 ≤ (start.setI 0xFFE).i.toNat + k) ∧
    (∃ k, k < (15#4).toNat + 1 ∧ 0x1000 ≤ (start.setI 0xFF1).i.toNat + k) :=
  ⟨⟨1, by decide⟩, ⟨2, by decide⟩, ⟨15, by decide⟩⟩

theorem witness_StoredBytesAreFetchedNext :
    let s := start.setI 0xFF0
    s.dataAddr (15#4).toNat ≤ 0xFFF ∧ (15#4).toNat = (14#4).toNat + 1 ∧
    (0xFFE#16).toNat = s.dataAddr (14#4).toNat ∧ s.dataAddr 2 ≤ 0xFFF ∧ (0xFF0#16).toNat = s.dataAddr 0 ∧
    (0xFF1#16).toNat = s.dataAddr 1 := by decide

theorem witness_KeySkips :
    let s := (withV 5 0x0F (withV 6 0x10 start)).writeKey 0xF true
    (s.readV 5).toNat = (15 : Fin 16).val ∧ s.key[(15 : Fin 16)] = true ∧ s.key[(0 : Fin 16)] = false ∧
    15 < (s.readV 6).toNat := by decide

theorem witness_KeyWaitLoadsTheLeastKeyOrRewinds :
    (let s := start.writeKey 0xF true
     s.key[(15 : Fin 16)] = true ∧ ∀ j : Fin 16, j.val < (15 : Fin 16).val → s.key[j] = false) ∧
    ∀ k : Fin 16, start.key[k] = false := by decide

/-- Every row of the table of faults is due somewhere, at the boundary of its condition. -/
theorem witness_FaultsComeExactlyFromTheirConditions :
    (start.setInputs [.load (List.replicate 3585 0)]).FaultDue .loadTooLarge none ∧
    (start.withFetchWord 16 0x5121).FaultDue .unimplementedOpcode (some 0x5121) ∧
    ({ start.withFetchWord 16 0 with pc := 0xFFF }).FaultDue .fetchOutOfRange none ∧
    ((start.setI 0xFFF).withFetchWord 16 0xD012).FaultDue .memoryOutOfRange (some 0xD012) ∧
    ((start.setI 0xFFE).withFetchWord 16 0xF033).FaultDue .memoryOutOfRange (some 0xF033) ∧
    ((start.setI 0xFF1).withFetchWord 16 0xFF55).FaultDue .memoryOutOfRange (some 0xFF55) ∧
    ((start.setI 0x1000).withFetchWord 16 0xF065).FaultDue .memoryOutOfRange (some 0xF065) ∧
    (({ start with sp := 16 } : State).withFetchWord 16 0x2300).FaultDue .stackOverflow (some 0x2300) ∧
    (start.withFetchWord 16 0x00EE).FaultDue .stackUnderflow (some 0x00EE) ∧
    ((withV 5 0x10 start).withFetchWord 16 0xE59E).FaultDue .keyIndexOutOfRange (some 0xE59E) := by
  refine ⟨⟨rfl, _, rfl, by rw [List.length_replicate]; omega⟩, ⟨_, rfl, ⟨⟨none, rfl⟩, by decide⟩, by decide⟩,
    ⟨rfl, ⟨none, rfl⟩, by decide⟩,
    ⟨_, rfl, ⟨⟨none, rfl⟩, by decide⟩, .inl ⟨0, 1, 2, by decide, 1, by decide⟩⟩,
    ⟨_, rfl, ⟨⟨none, rfl⟩, by decide⟩, .inr (.inl ⟨0, by decide, 2, by decide⟩)⟩,
    ⟨_, rfl, ⟨⟨none, rfl⟩, by decide⟩, .inr (.inr (.inl ⟨15, by decide, 15, by decide⟩))⟩,
    ⟨_, rfl, ⟨⟨none, rfl⟩, by decide⟩, .inr (.inr (.inr ⟨0, by decide, 0, by decide⟩))⟩,
    ⟨_, rfl, ⟨⟨none, rfl⟩, by decide⟩, ⟨0x300, by decide⟩, by decide⟩,
    ⟨_, rfl, ⟨⟨none, rfl⟩, by decide⟩, by decide, by decide⟩,
    ⟨_, rfl, ⟨⟨none, rfl⟩, by decide⟩, 5, .inl (by decide), by decide⟩⟩

theorem witness_OperandsAreTheFieldsOfTheWord :
    decodeWord 0x8E14 = some (.addReg 0xE 0x1) ∧ decodeWord 0xDE1F = some (.drw 0xE 0x1 0xF) := by decide

theorem witness_FontIsFixed :
    ∃ t, step ({ start with font := Vector.replicate 80 7 }.setInputs [.reset]) = .next t ∧ t.phase = .constructed :=
  ⟨_, rfl, rfl⟩

/-- P5's end: a transaction that faults. -/
theorem witness_FaultingTransaction :
    ∃ t, step ((start.withFetchWord 16 0x00EE).setInputs [.cycle (some 0)]) = .next t ∧ t.phase = .halted := by
  obtain ⟨t, ht, h⟩ := stepsTo_next (s := (start.withFetchWord 16 0x00EE).setInputs [.cycle (some 0)])
    (p := fun t => t.phase == .halted) (by decide)
  exact ⟨t, ht, by simpa using h⟩

theorem witness_DisplayWritten :
    ∃ t, step (drawState.withFetchWord 16 0xD001) = .next t ∧
      t.disp ≠ (drawState.withFetchWord 16 0xD001).disp := by
  obtain ⟨t, ht, h⟩ := stepsTo_next (s := drawState.withFetchWord 16 0xD001)
    (p := fun t => t.disp != (drawState.withFetchWord 16 0xD001).disp) (by decide)
  exact ⟨t, ht, by simpa using h⟩

theorem witness_MemoryWritten :
    ∃ t, exec (.ldMemVx 0) (withV 0 7 (start.setI 0x300)) = .next t ∧ t.mem.read 0x300 ≠ start.mem.read 0x300 := by
  obtain ⟨t, ht, h⟩ := execsTo_next (i := .ldMemVx 0) (s := withV 0 7 (start.setI 0x300))
    (p := fun t => t.mem.read 0x300 != start.mem.read 0x300) (by decide)
  exact ⟨t, ht, by simpa using h⟩

theorem witness_StackWritten :
    ∃ t, exec (.call 0x300) start = .next t ∧ t.stack[(0 : Fin 16)] ≠ start.stack[(0 : Fin 16)] := by
  obtain ⟨t, ht, h⟩ := execsTo_next (i := .call 0x300) (s := start)
    (p := fun t => t.stack[(0 : Fin 16)] != start.stack[(0 : Fin 16)]) (by decide)
  exact ⟨t, ht, by simpa using h⟩

theorem witness_IndexAndTimersWritten :
    (∃ t, exec (.ldI 1) start = .next t ∧ t.i ≠ start.i) ∧
    (∃ t, exec (.ldDtVx 1) (withV 1 9 start) = .next t ∧ t.dt ≠ start.dt) ∧
    (∃ t, exec (.ldStVx 1) (withV 1 9 start) = .next t ∧ t.st ≠ start.st) :=
  ⟨⟨_, rfl, by decide⟩, ⟨_, rfl, by decide⟩, ⟨_, rfl, by decide⟩⟩

theorem witness_VfWritten :
    ∃ t, exec (.subReg 0 1) start = .next t ∧ t.readV VF ≠ start.readV VF := ⟨_, rfl, by decide⟩

theorem witness_ParityChanged : ∃ t, exec (.jp 0x201) start = .next t ∧ t.pc.toNat % 2 ≠ start.pc.toNat % 2 :=
  ⟨_, rfl, by decide⟩

theorem witness_KeysAndTimersAcrossAStep :
    (∃ t, step (start.setInputs [.setKey 15 true]) = .next t ∧ t.key ≠ start.key) ∧
    (∃ t, step (((start.setDt 1).setSt 1).setInputs [.tick]) = .next t ∧ t.dt ≠ 1 ∧ t.st ≠ 1) := by
  refine ⟨?_, ?_⟩
  · obtain ⟨t, ht, h⟩ := stepsTo_next (s := start.setInputs [.setKey 15 true])
      (p := fun t => t.key != start.key) (by decide)
    exact ⟨t, ht, by simpa using h⟩
  · obtain ⟨t, ht, h⟩ := stepsTo_next (s := ((start.setDt 1).setSt 1).setInputs [.tick])
      (p := fun t => t.dt != 1 && t.st != 1) (by decide)
    exact ⟨t, ht, by simpa using h⟩

/-- Both invariants, in a state with a byte of memory written and a return address pushed, and a step from it. -/
theorem witness_StepKeepsTheInvariants :
    ∃ s t : State, s.mem ≠ [] ∧ s.mem.wf = true ∧ (s.fault.isSome = true ↔ s.phase = .halted) ∧
      s.pc.toNat ≤ 0x10FE ∧ (∀ k : Fin 16, s.stack[k].toNat ≤ 0x1000) ∧ step s = .next t := by
  obtain ⟨t, ht, -⟩ := stepsTo_next (s := atTop.setInputs [.cycle none]) (p := fun _ => true) (by decide)
  exact ⟨atTop.setInputs [.cycle none], t, by decide, by decide +kernel, by decide +kernel, by decide +kernel, by decide +kernel, ht⟩

end Sys2Proof.Tests
end

section
/-! The phase table of 10_state.md R41 (O11): which transactions move, and the phase a CYCLE leaves. -/

namespace Sys2Proof.Machine

/-! ### Executing an instruction -/

/-- No instruction stops the machine: a fault of the spec is a next state (log 1). -/
theorem exec_has_next (i : Instr) (s : State) : ∃ t, exec i s = .next t := by
  cases i with
  | ret | call | drw | skp | sknp | ldVxK | ldB | ldMemVx | ldVxMem =>
    simp only [exec, execRet, execCall, execDrw, execSkp, execSknp, execLdVxK, execLdB, execLdMemVx, execLdVxMem]
    split <;> exact ⟨_, rfl⟩
  | _ => exact ⟨_, rfl⟩

/-- An instruction writes the phase only by raising a fault (00_scope.md R15). -/
theorem exec_keeps_phase_or_halts {i : Instr} {s t : State} (h : exec i s = .next t) :
    t.phase = s.phase ∨ t.phase = .halted := by
  cases exec_effect h with
  | retFault | callFault | drwFault | skpFault | sknpFault | ldBFault | ldMemVxFault | ldVxMemFault =>
    exact .inr (by simp)
  | _ => exact .inl (by simp [State.skipIf_cases])

/-! ### Performing a transaction -/

theorem State.cycle_has_next (s : State) (r : Option Byte) : ∃ t, s.cycle r = .next t := by
  obtain ⟨-, e⟩ | ⟨_, -, -, e⟩ | ⟨_, i, -, -, e⟩ := s.cycle_cases r
  · exact ⟨_, e⟩
  · exact ⟨_, e⟩
  · rw [e]
    exact exec_has_next i _

/-- After a CYCLE the phase is Running, whatever it was before, unless the CYCLE faulted (30_encoding.md R70). -/
theorem State.cycle_phase {s t : State} {r : Option Byte} (h : s.cycle r = .next t) :
    t.phase = .running ∨ t.phase = .halted := by
  obtain ⟨-, e⟩ | ⟨_, -, -, e⟩ | ⟨_, _, -, -, e⟩ := s.cycle_cases r
  · cases e.symm.trans h
    exact .inr (by simp)
  · cases e.symm.trans h
    exact .inr (by simp)
  · simpa using exec_keeps_phase_or_halts (e.symm.trans h)

theorem State.transact_has_next (s : State) (x : Transaction) : ∃ t, s.transact x = .next t := by
  cases x with
  | cycle r => exact s.cycle_has_next r
  | _ => exact ⟨_, rfl⟩

/-! ### The phase table -/

/-- A step moves exactly where the phase does not stop the host's next transaction. -/
theorem step_has_next_iff (s : State) : (∃ t, step s = .next t) ↔ s.phase.stuck s.port.next = none := by
  constructor
  · rintro ⟨t, h⟩
    exact (step_eq_next h).1
  · intro h
    rw [step_of_move rfl h]
    exact State.transact_has_next _ _

/-- The cells of the table that give a move, in the words of R41: only CYCLE and LOAD ask for more than a core that
is not Halted. -/
theorem Phase.stuck_eq_none_iff (p : Phase) (x : Transaction) :
    p.stuck x = none ↔
      p ≠ .halted ∧ (∀ r, x = .cycle r → p ≠ .constructed) ∧ (∀ bytes, x = .load bytes → p = .constructed) := by
  cases p with
  | halted => simp [stuck_halted]
  | constructed | loaded | running => cases x <;> simp [Phase.stuck]

/-- Settles O11: the moves are the cells where `Phase.stuck` names no stop, and every transaction performed there
answers a next state; a CYCLE leaves Running or Halted. -/
theorem phaseTableGivesTheMoves : Obligations.PhaseTableGivesTheMoves := by
  unfold Obligations.PhaseTableGivesTheMoves
  intro s x hx
  subst hx
  refine ⟨(step_has_next_iff s).trans (Phase.stuck_eq_none_iff _ _), ?_⟩
  intro r t hcycle hstep hne
  obtain ⟨-, ht⟩ := step_eq_next hstep
  rw [hcycle] at ht
  exact (State.cycle_phase ht).resolve_right hne

end Sys2Proof.Machine
end

section
/-! Accesses past the end of memory (O42, decision D6): which instructions access bytes at `I`, how many, and what
they do where one of those bytes is not in memory. -/

namespace Sys2Proof.Machine

/-- `CheckRange` fails exactly where one of the bytes lies past the end of memory, on exact sums (20_memory.md R56). -/
theorem State.dataInRange_eq_false_iff {s : State} {count : Nat} :
    s.dataInRange count = false ↔ ∃ k, k < count ∧ 0x1000 ≤ s.i.toNat + k := by
  rw [← Bool.not_eq_true, State.dataInRange, inRange_iff, State.dataAddr]
  constructor
  · intro h
    exact ⟨count - 1, by omega, by omega⟩
  · rintro ⟨k, hk, hpast⟩
    omega

@[simp] theorem State.dataInRange_zero (s : State) : s.dataInRange 0 = true := rfl

@[simp] theorem State.loadData_zero (s : State) : s.loadData 0 = [] := rfl

/-- An instruction whose next state is `raiseIn` raises that fault, as a statement says it. -/
theorem raises_of_exec_eq_raiseIn {i : Instr} {r : FaultReason} {s : State}
    (h : exec i s = .next (s.raiseIn r i)) : Raises i r s := by
  refine ⟨_, h, s.raiseIn_phase .., s.raiseIn_fault .., s.raiseIn_pc .., s.raiseIn_port .., ?_⟩
  intro p hp
  cases p with
  | pc | phase | fault | port => simp at hp
  | _ => simp [Part.Same]

/-- How many bytes from `I` on the instruction accesses as data (20_memory.md R56). -/
def dataAccessCount : Instr → Nat
  | .drw _ _ n => n.toNat
  | .ldB _ => 3
  | .ldMemVx x => x.toNat + 1
  | .ldVxMem x => x.toNat + 1
  | _ => 0

/-- An instruction raises MemoryOutOfRange, with nothing else changed, if a byte it would access is not in memory. -/
theorem raises_of_access_past_memory {i : Instr} {s : State}
    (h : ∃ k, k < dataAccessCount i ∧ 0x1000 ≤ s.i.toNat + k) : Raises i .memoryOutOfRange s := by
  have hout : s.dataInRange (dataAccessCount i) = false := State.dataInRange_eq_false_iff.mpr h
  obtain ⟨t, ht⟩ := exec_has_next i s
  cases exec_effect ht with
  | drwFault | ldBFault | ldMemVxFault | ldVxMemFault => exact raises_of_exec_eq_raiseIn ht
  | drw _ _ _ _ hin | ldB _ _ hin | ldMemVx _ _ hin | ldVxMem _ _ hin => simp [dataAccessCount, hin] at hout
  | _ => simp [dataAccessCount] at hout

/-- A sprite of no rows accesses no byte: nothing is drawn, and VF says that nothing collided (41_display.md R101). -/
theorem exec_drw_zero (x y : Reg) (s : State) : exec (.drw x y 0) s = .next ((s.setDisp s.disp).setFlag 0) := by
  obtain ⟨t, ht⟩ := exec_has_next (.drw x y 0) s
  rw [ht]
  cases exec_effect ht with
  | drw _ _ _ _ _ d hd =>
    have hnone : d = (s.disp, false) := by simpa [drawRows] using hd
    rw [hnone]
    rfl
  | drwFault _ _ _ _ hout => simp at hout

/-- Settles O42: each clause is `raises_of_access_past_memory` for its instruction; DXY0 has no byte to check. -/
theorem accessPastMemoryFaults : Obligations.AccessPastMemoryFaults := by
  unfold Obligations.AccessPastMemoryFaults
  intro x y n s
  exact ⟨raises_of_access_past_memory (i := .drw x y n), raises_of_access_past_memory (i := .ldB x),
    raises_of_access_past_memory (i := .ldMemVx x), raises_of_access_past_memory (i := .ldVxMem x),
    _, exec_drw_zero x y s, by simp [VF]⟩

end Sys2Proof.Machine
end

section
/-! The fetch of 30_encoding.md R71 (O9): the word it gives, and the fault of a CYCLE that cannot fetch. -/

namespace Sys2Proof.Machine

/-- A fault raised with the state's own `PC`, once the host's transaction is taken, writes only the fault's marks
(60_exceptions.md R222). -/
theorem State.raise_setPort_onlyChanges (s : State) (p : HostPort) (r : FaultReason) (op : Option Word) :
    OnlyChanges [.phase, .fault, .port] s ((s.setPort p).raise r s.pc op) := by
  intro part hpart
  cases part with
  | phase | fault | port => simp at hpart
  | _ => simp [Part.Same]

/-- A CYCLE that cannot fetch raises FetchOutOfRange, with `PC` and no opcode on record (60_exceptions.md R221). -/
theorem State.cycle_of_fetch16_eq_none {s : State} (r : Option Byte) (h : s.fetch16 s.pc = none) :
    s.cycle r = .next (s.raise .fetchOutOfRange s.pc none) := by
  obtain ⟨-, e⟩ | ⟨_, hf, -⟩ | ⟨_, _, hf, -⟩ := s.cycle_cases r
  · exact e
  · simp [h] at hf
  · simp [h] at hf

/-- The step of a CYCLE whose second byte is past memory. -/
theorem step_of_fetch_past_memory {s : State} (hphase : s.phase = .loaded ∨ s.phase = .running)
    (hcycle : s.CycleIsNext) (hpast : 0xFFF < s.pc.toNat + 1) :
    step s = .next ((s.setPort s.port.taken).raise .fetchOutOfRange s.pc none) := by
  obtain ⟨r, hr⟩ := hcycle
  rw [step_of_move hr (stuck_cycle_eq_none.mpr hphase)]
  exact State.cycle_of_fetch16_eq_none r (State.fetch16_eq_none.mpr hpast)

/-- Settles O9: in range the fetch is `bigEndian` of the two bytes; past it the step is a raise that keeps `PC`. -/
theorem fetchIsBigEndianAndFaultsPastMemory : Obligations.FetchIsBigEndianAndFaultsPastMemory := by
  unfold Obligations.FetchIsBigEndianAndFaultsPastMemory
  constructor
  · intro s a hin
    exact ⟨_, State.fetch16_eq_some.mpr ⟨hin, rfl⟩, bigEndian_toNat _ _⟩
  · intro s hphase hcycle hpast
    exact ⟨_, step_of_fetch_past_memory hphase hcycle hpast, by simp, by simp, by simp,
      s.raise_setPort_onlyChanges _ _ _⟩

end Sys2Proof.Machine
end

section
/-! The display instructions (41_display.md): what CLS and DXYN write (O20, O21), and that nothing but these two and
RESET writes the display (O50). -/

namespace Sys2Proof.Machine

/-! ### CLS -/

theorem spelledBy_cls : SpelledBy 0xFFFF 0x00E0 .cls := ⟨by decide, rfl, rfl⟩

/-- Settles O20: the cleared display has every pixel 0, and writing it changes no other part. -/
theorem clsClearsEveryPixel : Obligations.ClsClearsEveryPixel := by
  unfold Obligations.ClsClearsEveryPixel
  refine ⟨spelledBy_cls, fun s => ⟨s.setDisp Display.clear, rfl, fun idx => pixel_clear _ _, ?_⟩⟩
  intro p hp
  cases p with
  | display => simp at hp
  | _ => simp [Part.Same]

/-! ### DXYN -/

/-- DXYN's word has its family in the top nibble and every other bit an operand bit (30_encoding.md R76). -/
theorem spelledBy_drw (x y : Reg) (n : Nibble) : SpelledBy 0xF000 0xD000 (.drw x y n) := by
  refine ⟨by decide, ?_, by simp [encode, decodeWord]⟩
  have hmask := formatXYN_and 0xD#4 0xF#4 x 0#4 y 0#4 n 0#4
  rw [BitVec.and_zero, BitVec.and_zero, BitVec.and_zero] at hmask
  exact hmask

/-- `CheckRange(I, count)` holds for no bytes, and where the last byte is in memory (20_memory.md R57). -/
theorem State.dataInRange_iff {s : State} {count : Nat} :
    s.dataInRange count = true ↔ count = 0 ∨ s.i.toNat + count - 1 ≤ 0xFFF :=
  inRange_iff _ _

@[simp] theorem State.length_loadData (s : State) (count : Nat) : (s.loadData count).length = count :=
  Memory.length_readBytes _ _ _

theorem State.getElem_loadData (s : State) (count k : Nat) (h : k < (s.loadData count).length) :
    (s.loadData count)[k] = s.mem.read (s.i.toNat + k) :=
  Memory.getElem_readBytes _ _ _ _ h

/-- The rows read at `I` hit the pixels that the sprite at `I` hits. -/
theorem State.rowsHit_loadData_iff (s : State) (x0 y0 n : Nat) (px : Fin 64) (py : Fin 32) :
    rowsHit x0 y0 (s.loadData n) px py ↔ s.SpriteHits x0 y0 n px py := by
  rw [rowsHit_iff]
  constructor
  · rintro ⟨r, hr, c, hc, hbit, hx, hy⟩
    rw [State.getElem_loadData] at hbit
    exact ⟨r, c, by simpa using hr, hc, hbit, hx, hy⟩
  · rintro ⟨r, c, hr, hc, hbit, hx, hy⟩
    refine ⟨r, by simpa using hr, c, hc, ?_, hx, hy⟩
    rwa [State.getElem_loadData]

/-- Drawing the `n` rows at `I` flips the pixels the sprite hits and keeps the others; it collides where the sprite
hits a set pixel (41_display.md R101). -/
theorem State.drawRows_loadData_spec (s : State) (x0 y0 n : Nat) (hn : n ≤ 32) :
    (∀ px py,
      (s.SpriteHits x0 y0 n px py →
        Display.pixel (drawRows x0 y0 (s.loadData n) (s.disp, false)).1 px py = !Display.pixel s.disp px py) ∧
      (¬ s.SpriteHits x0 y0 n px py →
        Display.pixel (drawRows x0 y0 (s.loadData n) (s.disp, false)).1 px py = Display.pixel s.disp px py)) ∧
    ((drawRows x0 y0 (s.loadData n) (s.disp, false)).2 = true ↔
      ∃ px py, s.SpriteHits x0 y0 n px py ∧ Display.pixel s.disp px py = true) := by
  simpa [State.rowsHit_loadData_iff] using drawRows_spec x0 (s.loadData n) y0 (s.disp, false) (by simpa using hn)

/-- DXYN with its sprite in memory draws the rows at `I` and writes the collision to VF. -/
theorem exec_drw_of_inRange {x y : Reg} {n : Nibble} {s : State} (h : s.dataInRange n.toNat = true) :
    exec (.drw x y n) s =
      .next ((s.setDisp
        (drawRows (s.readV x).toNat (s.readV y).toNat (s.loadData n.toNat) (s.disp, false)).1).setFlag
        (collisionFlag
          (drawRows (s.readV x).toNat (s.readV y).toNat (s.loadData n.toNat) (s.disp, false)).2)) := by
  simp [exec, execDrw, h]

/-- A display and a flag written: no part but the display and the registers changes. -/
theorem State.setDisp_setFlag_onlyChanges (s : State) (d : Display) (f : Byte) :
    OnlyChanges [.display, .regs] s ((s.setDisp d).setFlag f) := by
  intro p hp
  cases p with
  | display | regs => simp at hp
  | _ => simp [Part.Same]

/-- Settles O21: where the range check holds the drawn rows are the sprite (`State.drawRows_loadData_spec`); where it
fails the last row's byte is past memory. -/
theorem drwXorsTheSpriteAndSetsVf : Obligations.DrwXorsTheSpriteAndSetsVf := by
  unfold Obligations.DrwXorsTheSpriteAndSetsVf
  intro x y n
  refine ⟨spelledBy_drw x y n, fun s => ⟨fun hin => ?_, fun hpos hpast => ?_⟩⟩
  · have hrange : s.dataInRange n.toNat = true :=
      State.dataInRange_iff.mpr (hin.imp_left fun h0 => by simp [h0])
    obtain ⟨hpixels, hcollision⟩ :=
      s.drawRows_loadData_spec (s.readV x).toNat (s.readV y).toNat n.toNat (by omega)
    refine ⟨_, exec_drw_of_inRange hrange, hpixels, fun hhit => ?_, fun hmiss => ?_, fun r hr => ?_,
      s.setDisp_setFlag_onlyChanges _ _⟩
    · simp [hcollision.mpr hhit, collisionFlag, flagByte]
    · simp [Bool.eq_false_of_not_eq_true (mt hcollision.mp hmiss), collisionFlag, flagByte]
    · rw [List.mem_singleton] at hr
      simp [hr]
  · exact raises_of_access_past_memory ⟨n.toNat - 1, by simp only [dataAccessCount]; omega, by omega⟩

/-! ### The writers of the display -/

/-- An instruction that changes the display is CLS or DXYN. -/
theorem cls_or_drw_of_exec_disp_ne {i : Instr} {s t : State} (h : exec i s = .next t) (hne : t.disp ≠ s.disp) :
    i = .cls ∨ ∃ x y n, i = .drw x y n := by
  cases exec_effect h with
  | cls => exact .inl rfl
  | drw | drwFault => exact .inr ⟨_, _, _, rfl⟩
  | _ => simp [State.skipIf_cases] at hne

/-- A CYCLE that changes the display runs CLS or DXYN. -/
theorem State.cycle_disp_ne {s t : State} {r : Option Byte} (h : s.cycle r = .next t) (hne : t.disp ≠ s.disp) :
    ∃ w, s.fetch16 s.pc = some w ∧ (decodeWord w = some .cls ∨ ∃ x y n, decodeWord w = some (.drw x y n)) := by
  obtain ⟨-, e⟩ | ⟨_, -, -, e⟩ | ⟨w, i, hfetch, hdecode, e⟩ := s.cycle_cases r
  · cases e.symm.trans h
    simp at hne
  · cases e.symm.trans h
    simp at hne
  · refine ⟨w, hfetch, ?_⟩
    rw [hdecode]
    simpa using cls_or_drw_of_exec_disp_ne (e.symm.trans h) hne

@[simp] theorem State.loadProgram_disp (bytes : List Byte) (s : State) : (s.loadProgram bytes).disp = s.disp := by
  unfold State.loadProgram
  split <;> simp

@[simp] theorem State.tick_disp (s : State) : s.tick.disp = s.disp := by
  simp only [State.tick, State.respond_disp, apply_ite State.disp, State.setDt_disp, State.setSt_disp, ite_self]

/-- A transaction that changes the display is RESET or a CYCLE. -/
theorem reset_or_cycle_of_transact_disp_ne {s t : State} {x : Transaction} (h : s.transact x = .next t)
    (hne : t.disp ≠ s.disp) : x = .reset ∨ ∃ r, x = .cycle r ∧ s.cycle r = .next t := by
  cases x with
  | reset => exact .inl rfl
  | cycle r => exact .inr ⟨r, rfl, h⟩
  | load | tick | getDisplay | setKey =>
    cases h
    simp [State.getDisplay, State.pressKey] at hne

/-- Settles O50: of the transactions only RESET and CYCLE reach the display, and a CYCLE only through CLS and DXYN;
taking the transaction from the host's port changes neither the display nor what is fetched. -/
theorem onlyClsAndDrwWriteTheDisplay : Obligations.OnlyClsAndDrwWriteTheDisplay := by
  unfold Obligations.OnlyClsAndDrwWriteTheDisplay
  intro s t hstep hne
  obtain ⟨-, ht⟩ := step_eq_next hstep
  obtain hreset | ⟨r, hr, hcycle⟩ := reset_or_cycle_of_transact_disp_ne ht hne
  · exact .inl hreset
  · obtain ⟨w, hfetch, hinstr⟩ := State.cycle_disp_ne hcycle hne
    exact .inr ⟨w, ⟨⟨r, hr⟩, hfetch⟩, hinstr⟩

end Sys2Proof.Machine
end

section
/-! Control flow (42_flow.md): NOP and the jumps (O23, O24, O25), CALL and RET on the stack (O26, O27), and the skips
(O29, O30). -/

namespace Sys2Proof.Machine

/-! ### Words of a format -/

/-- A word of format NNN is spelled by the row that fixes its top nibble alone (30_encoding.md R76). -/
theorem spelledBy_of_formatNNN {i : Instr} {d : Nibble} {nnn : Addr} {pattern : Word}
    (henc : encode i = formatNNN d nnn) (hpattern : formatNNN d 0#12 = pattern)
    (hrow : (⟨0xF000, pattern⟩ : OpcodeRow) ∈ opcodeRows) (hdec : decodeWord (formatNNN d nnn) = some i) :
    SpelledBy 0xF000 pattern i := by
  have hmask := formatNNN_and d (BitVec.allOnes 4) nnn 0#12
  rw [BitVec.and_allOnes, BitVec.and_zero, hpattern, ← henc] at hmask
  exact ⟨hrow, hmask, henc ▸ hdec⟩

/-- A word of format XNN is spelled by the row that fixes its top nibble alone. -/
theorem spelledBy_of_formatXNN {i : Instr} {d : Nibble} {x : Reg} {nn : Byte} {pattern : Word}
    (henc : encode i = formatXNN d x nn) (hpattern : formatXNN d 0#4 0#8 = pattern)
    (hrow : (⟨0xF000, pattern⟩ : OpcodeRow) ∈ opcodeRows) (hdec : decodeWord (formatXNN d x nn) = some i) :
    SpelledBy 0xF000 pattern i := by
  have hmask := formatXNN_and d (BitVec.allOnes 4) x 0#4 nn 0#8
  rw [BitVec.and_allOnes, BitVec.and_zero, BitVec.and_zero, hpattern, ← henc] at hmask
  exact ⟨hrow, hmask, henc ▸ hdec⟩

/-- A word of format XYn is spelled by the row that fixes its outer nibbles. -/
theorem spelledBy_of_formatXYN {i : Instr} {d n : Nibble} {x y : Reg} {pattern : Word}
    (henc : encode i = formatXYN d x y n) (hpattern : formatXYN d 0#4 0#4 n = pattern)
    (hrow : (⟨0xF00F, pattern⟩ : OpcodeRow) ∈ opcodeRows) (hdec : decodeWord (formatXYN d x y n) = some i) :
    SpelledBy 0xF00F pattern i := by
  have hmask := formatXYN_and d (BitVec.allOnes 4) x 0#4 y 0#4 n (BitVec.allOnes 4)
  rw [BitVec.and_allOnes, BitVec.and_allOnes, BitVec.and_zero, BitVec.and_zero, hpattern, ← henc] at hmask
  exact ⟨hrow, hmask, henc ▸ hdec⟩

/-! ### NOP and the jumps -/

/-- Settles O23: NOP's row fixes every bit of its word, and its arm of `exec` answers the state it is given. -/
theorem nopChangesNothing : Obligations.NopChangesNothing := by
  unfold Obligations.NopChangesNothing
  exact ⟨⟨by decide, rfl, rfl⟩, fun _ => rfl⟩

/-- A write of `PC` changes no other part. -/
theorem State.setPc_onlyChanges (s : State) (w : Word) : OnlyChanges [.pc] s (s.setPc w) := by
  intro p hp
  cases p with
  | pc => simp at hp
  | _ => simp [Part.Same]

theorem spelledBy_jp (nnn : Addr) : SpelledBy 0xF000 0x1000 (.jp nnn) :=
  spelledBy_of_formatNNN rfl rfl (by decide) (by simp [decodeWord])

/-- Settles O24: the address is written to `PC` as it is. -/
theorem jpSetsPc : Obligations.JpSetsPc := by
  unfold Obligations.JpSetsPc
  exact fun nnn => ⟨spelledBy_jp nnn, fun s => ⟨_, rfl, zext16_toNat nnn, s.setPc_onlyChanges _⟩⟩

theorem spelledBy_jpV0 (nnn : Addr) : SpelledBy 0xF000 0xB000 (.jpV0 nnn) :=
  spelledBy_of_formatNNN rfl rfl (by decide) (by simp [decodeWord])

/-- The target of JP V0 fits `PC`: a byte and a 12-bit address add up to at most 0x10FE (10_state.md R26). -/
theorem jpV0_target_toNat (b : Byte) (nnn : Addr) :
    (BitVec.ofNat 16 (b.toNat + nnn.toNat)).toNat = b.toNat + nnn.toNat := by
  rw [BitVec.toNat_ofNat]
  omega

/-- Settles O25: the sum written to `PC` is exact (`jpV0_target_toNat`). -/
theorem jpV0AddsV0 : Obligations.JpV0AddsV0 := by
  unfold Obligations.JpV0AddsV0
  exact fun nnn => ⟨spelledBy_jpV0 nnn, fun s => ⟨_, rfl, jpV0_target_toNat _ nnn, s.setPc_onlyChanges _⟩⟩

/-! ### CALL -/

theorem spelledBy_call (nnn : Addr) : SpelledBy 0xF000 0x2000 (.call nnn) :=
  spelledBy_of_formatNNN rfl rfl (by decide) (by simp [decodeWord])

/-- CALL with a free entry pushes `PC` and jumps. -/
theorem exec_call_of_lt {nnn : Addr} {s : State} (h : s.sp.val < 16) :
    exec (.call nnn) s = .next
      { s with stack := s.stack.set s.sp.val s.pc h, sp := ⟨s.sp.val + 1, by omega⟩, pc := zext16 nnn } := by
  obtain ⟨t, ht⟩ := exec_has_next (.call nnn) s
  cases exec_effect ht with
  | call => exact ht
  | callFault _ _ hfull => omega

theorem exec_call_of_full {nnn : Addr} {s : State} (h : s.sp.val = 16) :
    exec (.call nnn) s = .next (s.raiseIn .stackOverflow (.call nnn)) := by
  obtain ⟨t, ht⟩ := exec_has_next (.call nnn) s
  cases exec_effect ht with
  | call _ _ hlt => omega
  | callFault => exact ht

/-- A stack, its pointer and `PC` written: no other part changes. -/
theorem State.stack_sp_pc_onlyChanges (s : State) (stack : Vector Word 16) (sp : Fin 17) (pc : Word) :
    OnlyChanges [.stack, .sp, .pc] s { s with stack, sp, pc } := by
  intro p hp
  cases p with
  | stack | sp | pc => simp at hp
  | regs | memory => exact fun _ => rfl
  | _ => rfl

/-- Settles O26: a free entry takes `PC` and the others are those of the old stack; with none left CALL raises. -/
theorem callPushesTheReturnAddress : Obligations.CallPushesTheReturnAddress := by
  unfold Obligations.CallPushesTheReturnAddress
  refine fun nnn => ⟨spelledBy_call nnn, fun s => ⟨fun hlt => ?_, fun hfull => ?_⟩⟩
  · refine ⟨_, exec_call_of_lt hlt, fun k => ?_, rfl, zext16_toNat nnn, s.stack_sp_pc_onlyChanges _ _ _⟩
    simp [Vector.getElem_set, eq_comm]
  · exact raises_of_exec_eq_raiseIn (exec_call_of_full hfull)

/-! ### RET -/

theorem spelledBy_ret : SpelledBy 0xFFFF 0x00EE .ret := ⟨by decide, rfl, rfl⟩

/-- RET with `k + 1` entries on the stack pops entry `k` into `PC`. -/
theorem exec_ret_of_sp_eq_succ {k : Fin 16} {s : State} (h : s.sp.val = k.val + 1) :
    exec .ret s = .next { s with sp := k.castSucc, pc := s.stack[k] } := by
  obtain ⟨t, ht⟩ := exec_has_next .ret s
  rw [ht]
  cases exec_effect ht with
  | ret => simp [h, Fin.castSucc, Fin.castAdd, Fin.castLE]
  | retFault _ hempty => omega

theorem exec_ret_of_empty {s : State} (h : s.sp.val = 0) :
    exec .ret s = .next (s.raiseIn .stackUnderflow .ret) := by
  obtain ⟨t, ht⟩ := exec_has_next .ret s
  cases exec_effect ht with
  | ret _ _ hne => exact absurd h hne
  | retFault => exact ht

/-- A stack pointer and `PC` written: no other part changes, the stack's entries included. -/
theorem State.sp_pc_onlyChanges (s : State) (sp : Fin 17) (pc : Word) :
    OnlyChanges [.sp, .pc] s { s with sp, pc } := by
  intro p hp
  cases p with
  | sp | pc => simp at hp
  | regs | memory => exact fun _ => rfl
  | _ => rfl

/-- Settles O27: the pop reads the topmost entry and keeps it; with no entry RET raises. -/
theorem retPopsTheReturnAddress : Obligations.RetPopsTheReturnAddress := by
  unfold Obligations.RetPopsTheReturnAddress
  refine ⟨spelledBy_ret, fun s => ⟨fun k hk => ?_, fun hempty => ?_⟩⟩
  · exact ⟨_, exec_ret_of_sp_eq_succ hk, rfl, rfl, s.sp_pc_onlyChanges _ _⟩
  · exact raises_of_exec_eq_raiseIn (exec_ret_of_empty hempty)

/-! ### Skips -/

/-- A skip under a condition writes `PC` alone (42_flow.md R126). -/
theorem State.skipIf_onlyChanges (s : State) (c : Bool) : OnlyChanges [.pc] s (s.skipIf c) := by
  rw [State.skipIf_cases]
  exact s.setPc_onlyChanges _

/-- An instruction that skips on equal bytes. -/
theorem completes_of_skipIf_beq {i : Instr} {s : State} {a b : Byte} (h : exec i s = .next (s.skipIf (a == b))) :
    Completes i s fun t => (a = b → t.pc = s.pc + 2) ∧ (a ≠ b → t.pc = s.pc) ∧ OnlyChanges [.pc] s t := by
  refine ⟨_, h, fun heq => ?_, fun hne => ?_, s.skipIf_onlyChanges _⟩
  · simp [State.skipIf_cases, heq]
  · simp [State.skipIf_cases, hne]

/-- An instruction that skips on unequal bytes. -/
theorem completes_of_skipIf_bne {i : Instr} {s : State} {a b : Byte} (h : exec i s = .next (s.skipIf (a != b))) :
    Completes i s fun t => (a ≠ b → t.pc = s.pc + 2) ∧ (a = b → t.pc = s.pc) ∧ OnlyChanges [.pc] s t := by
  refine ⟨_, h, fun hne => ?_, fun heq => ?_, s.skipIf_onlyChanges _⟩
  · simp [State.skipIf_cases, hne]
  · simp [State.skipIf_cases, heq]

theorem spelledBy_seImm (x : Reg) (nn : Byte) : SpelledBy 0xF000 0x3000 (.seImm x nn) :=
  spelledBy_of_formatXNN rfl rfl (by decide) (by simp [decodeWord])

theorem spelledBy_sneImm (x : Reg) (nn : Byte) : SpelledBy 0xF000 0x4000 (.sneImm x nn) :=
  spelledBy_of_formatXNN rfl rfl (by decide) (by simp [decodeWord])

/-- Settles O29: SE and SNE compare VX with the immediate, for equal and for unequal. -/
theorem skipsOnAnImmediate : Obligations.SkipsOnAnImmediate := by
  unfold Obligations.SkipsOnAnImmediate
  exact fun x nn => ⟨spelledBy_seImm x nn, spelledBy_sneImm x nn, fun _ =>
    ⟨completes_of_skipIf_beq rfl, completes_of_skipIf_bne rfl⟩⟩

theorem spelledBy_seReg (x y : Reg) : SpelledBy 0xF00F 0x5000 (.seReg x y) :=
  spelledBy_of_formatXYN rfl rfl (by decide) (by simp [decodeWord, decodeWhenN0])

theorem spelledBy_sneReg (x y : Reg) : SpelledBy 0xF00F 0x9000 (.sneReg x y) :=
  spelledBy_of_formatXYN rfl rfl (by decide) (by simp [decodeWord, decodeWhenN0])

/-- Settles O30: SE and SNE compare VX with VY, for equal and for unequal. -/
theorem skipsOnTwoRegisters : Obligations.SkipsOnTwoRegisters := by
  unfold Obligations.SkipsOnTwoRegisters
  exact fun x y => ⟨spelledBy_seReg x y, spelledBy_sneReg x y, fun _ =>
    ⟨completes_of_skipIf_beq rfl, completes_of_skipIf_bne rfl⟩⟩

end Sys2Proof.Machine
end

section
/-! Registers, arithmetic and logic (43_alu.md): the immediates (O31), copy and logic (O32), ADD with its carry (O33),
SUB and SUBN with the not-borrow (O34), and the shifts (O35). -/

namespace Sys2Proof.Machine

/-! ### Frames of register writes -/

theorem Part.Same.trans {p : Part} {s t u : State} (hst : p.Same s t) (htu : p.Same t u) : p.Same s u := by
  cases p with
  | regs | memory => exact fun k => (htu k).trans (hst k)
  | _ => exact Eq.trans htu hst

theorem OnlyChanges.trans {parts : List Part} {s t u : State} (hst : OnlyChanges parts s t)
    (htu : OnlyChanges parts t u) : OnlyChanges parts s u :=
  fun p hp => (hst p hp).trans (htu p hp)

theorem OnlyRegs.trans {regs : List Reg} {s t u : State} (hst : OnlyRegs regs s t) (htu : OnlyRegs regs t u) :
    OnlyRegs regs s u :=
  fun r hr => (htu r hr).trans (hst r hr)

theorem State.writeV_onlyChanges (s : State) (x : Reg) (b : Byte) : OnlyChanges [.regs] s (s.writeV x b) := by
  intro p hp
  cases p with
  | regs => simp at hp
  | _ => simp [Part.Same]

theorem State.writeV_onlyRegs {regs : List Reg} {x : Reg} (hx : x ∈ regs) (s : State) (b : Byte) :
    OnlyRegs regs s (s.writeV x b) := by
  intro r hr
  have hne : r ≠ x := fun h => hr (h ▸ hx)
  simp [hne]

/-- Two registers written in turn: no other register and no other part changes. -/
theorem State.writeV_writeV_frame {regs : List Reg} {x y : Reg} (hx : x ∈ regs) (hy : y ∈ regs) (s : State)
    (a b : Byte) :
    OnlyRegs regs s ((s.writeV x a).writeV y b) ∧ OnlyChanges [.regs] s ((s.writeV x a).writeV y b) :=
  ⟨(s.writeV_onlyRegs hx a).trans ((s.writeV x a).writeV_onlyRegs hy b),
    (s.writeV_onlyChanges x a).trans ((s.writeV x a).writeV_onlyChanges y b)⟩

/-! ### An instruction that writes VX alone -/

theorem completes_of_writeV {i : Instr} {s : State} {x : Reg} {b : Byte} (h : exec i s = .next (s.writeV x b)) :
    Completes i s fun t => t.readV x = b ∧ OnlyRegs [x] s t ∧ OnlyChanges [.regs] s t :=
  ⟨_, h, by simp, s.writeV_onlyRegs (List.mem_singleton_self x) b, s.writeV_onlyChanges x b⟩

theorem spelledBy_ldImm (x : Reg) (nn : Byte) : SpelledBy 0xF000 0x6000 (.ldImm x nn) :=
  spelledBy_of_formatXNN rfl rfl (by decide) (by simp [decodeWord])

theorem spelledBy_addImm (x : Reg) (nn : Byte) : SpelledBy 0xF000 0x7000 (.addImm x nn) :=
  spelledBy_of_formatXNN rfl rfl (by decide) (by simp [decodeWord])

/-- Settles O31: each form is one write of VX; the sum of bytes is the exact sum mod 256. -/
theorem immediatesWriteVx : Obligations.ImmediatesWriteVx := by
  unfold Obligations.ImmediatesWriteVx
  refine fun x nn => ⟨spelledBy_ldImm x nn, spelledBy_addImm x nn, fun s => ⟨completes_of_writeV rfl, ?_⟩⟩
  obtain ⟨t, ht, hx, hframe⟩ := completes_of_writeV (i := .addImm x nn) (s := s) rfl
  exact ⟨t, ht, hx ▸ BitVec.toNat_add .., hframe⟩

theorem spelledBy_ldReg (x y : Reg) : SpelledBy 0xF00F 0x8000 (.ldReg x y) :=
  spelledBy_of_formatXYN rfl rfl (by decide) (by simp [decodeWord, decodeFamily8])

theorem spelledBy_orReg (x y : Reg) : SpelledBy 0xF00F 0x8001 (.orReg x y) :=
  spelledBy_of_formatXYN rfl rfl (by decide) (by simp [decodeWord, decodeFamily8])

theorem spelledBy_andReg (x y : Reg) : SpelledBy 0xF00F 0x8002 (.andReg x y) :=
  spelledBy_of_formatXYN rfl rfl (by decide) (by simp [decodeWord, decodeFamily8])

theorem spelledBy_xorReg (x y : Reg) : SpelledBy 0xF00F 0x8003 (.xorReg x y) :=
  spelledBy_of_formatXYN rfl rfl (by decide) (by simp [decodeWord, decodeFamily8])

/-- Settles O32: each form is one write of VX, of VY or of the two bytes combined bit by bit. -/
theorem copyAndLogicWriteVx : Obligations.CopyAndLogicWriteVx := by
  unfold Obligations.CopyAndLogicWriteVx
  refine fun x y => ⟨spelledBy_ldReg x y, spelledBy_orReg x y, spelledBy_andReg x y, spelledBy_xorReg x y,
    fun s => ⟨completes_of_writeV rfl, ?or, ?and, ?xor⟩⟩
  case or =>
    obtain ⟨t, ht, hx, hframe⟩ := completes_of_writeV (i := .orReg x y) (s := s) rfl
    exact ⟨t, ht, fun _ => hx ▸ BitVec.getLsbD_or, hframe⟩
  case and =>
    obtain ⟨t, ht, hx, hframe⟩ := completes_of_writeV (i := .andReg x y) (s := s) rfl
    exact ⟨t, ht, fun _ => hx ▸ BitVec.getLsbD_and, hframe⟩
  case xor =>
    obtain ⟨t, ht, hx, hframe⟩ := completes_of_writeV (i := .xorReg x y) (s := s) rfl
    exact ⟨t, ht, fun _ => hx ▸ BitVec.getLsbD_xor, hframe⟩

/-! ### The result first, the flag last (R156, R157, R159) -/

theorem carryFlag_of_lt {a b : Byte} (h : 255 < a.toNat + b.toNat) : carryFlag a b = 1 := by
  simp [carryFlag, flagByte, h]

theorem carryFlag_of_le {a b : Byte} (h : a.toNat + b.toNat ≤ 255) : carryFlag a b = 0 := by
  simp [carryFlag, flagByte, h]

theorem noBorrowFlag_of_le {a b : Byte} (h : b.toNat ≤ a.toNat) : noBorrowFlag a b = 1 := by
  simp [noBorrowFlag, flagByte, h]

theorem noBorrowFlag_of_lt {a b : Byte} (h : a.toNat < b.toNat) : noBorrowFlag a b = 0 := by
  simp [noBorrowFlag, flagByte, h]

/-- The flag written last stands in VF, also where VF is the destination (R162). -/
theorem completes_of_writeV_setFlag {i : Instr} {s : State} {x : Reg} {b f : Byte}
    (h : exec i s = .next ((s.writeV x b).setFlag f)) :
    Completes i s fun t =>
      (x ≠ VF → t.readV x = b) ∧ t.readV VF = f ∧ OnlyRegs [x, VF] s t ∧ OnlyChanges [.regs] s t :=
  ⟨_, h, fun hx => by simp [hx], by simp, s.writeV_writeV_frame (by simp) (by simp) b f⟩

theorem spelledBy_addReg (x y : Reg) : SpelledBy 0xF00F 0x8004 (.addReg x y) :=
  spelledBy_of_formatXYN rfl rfl (by decide) (by simp [decodeWord, decodeFamily8])

/-- Settles O33: the exact sum is cut to a byte for VX, and compared with 255 for the carry that VF ends as. -/
theorem addWritesSumThenCarry : Obligations.AddWritesSumThenCarry := by
  unfold Obligations.AddWritesSumThenCarry
  refine fun x y => ⟨spelledBy_addReg x y, fun s => ?_⟩
  obtain ⟨t, ht, hx, hvf, hframe⟩ := completes_of_writeV_setFlag (i := .addReg x y) (s := s) rfl
  exact ⟨t, ht, fun hne => hx hne ▸ BitVec.toNat_ofNat .., fun hcarry => hvf.trans (carryFlag_of_lt hcarry),
    fun hnone => hvf.trans (carryFlag_of_le hnone), hframe⟩

theorem toNat_sub_eq_emod (a b : Byte) : ((a - b).toNat : Int) = ((a.toNat : Int) - b.toNat) % 256 := by
  rw [BitVec.toNat_sub]
  omega

/-- An instruction that subtracts `b` from `a` into VX, with the not-borrow in VF. -/
theorem completes_of_difference {i : Instr} {s : State} {x : Reg} {a b : Byte}
    (h : exec i s = .next ((s.writeV x (a - b)).setFlag (noBorrowFlag a b))) :
    Completes i s fun t =>
      (x ≠ VF → ((t.readV x).toNat : Int) = ((a.toNat : Int) - b.toNat) % 256) ∧
      (b.toNat ≤ a.toNat → t.readV VF = 1) ∧ (a.toNat < b.toNat → t.readV VF = 0) ∧
      OnlyRegs [x, VF] s t ∧ OnlyChanges [.regs] s t := by
  obtain ⟨t, ht, hx, hvf, hframe⟩ := completes_of_writeV_setFlag h
  exact ⟨t, ht, fun hne => hx hne ▸ toNat_sub_eq_emod a b, fun hle => hvf.trans (noBorrowFlag_of_le hle),
    fun hlt => hvf.trans (noBorrowFlag_of_lt hlt), hframe⟩

theorem spelledBy_subReg (x y : Reg) : SpelledBy 0xF00F 0x8005 (.subReg x y) :=
  spelledBy_of_formatXYN rfl rfl (by decide) (by simp [decodeWord, decodeFamily8])

theorem spelledBy_subnReg (x y : Reg) : SpelledBy 0xF00F 0x8007 (.subnReg x y) :=
  spelledBy_of_formatXYN rfl rfl (by decide) (by simp [decodeWord, decodeFamily8])

/-- Settles O34: SUB and SUBN are one subtraction (`completes_of_difference`) with the operands exchanged. -/
theorem subAndSubnWriteDifferenceThenNoBorrow : Obligations.SubAndSubnWriteDifferenceThenNoBorrow := by
  unfold Obligations.SubAndSubnWriteDifferenceThenNoBorrow
  exact fun x y => ⟨spelledBy_subReg x y, spelledBy_subnReg x y, fun _ =>
    ⟨completes_of_difference rfl, completes_of_difference rfl⟩⟩

/-! ### The flag first, the shift last (R158, R160) -/

theorem shiftedOutRight_toNat (a : Byte) : (shiftedOutRight a).toNat = a.toNat % 2 := by
  rw [shiftedOutRight, BitVec.toNat_and]
  exact Nat.and_one_is_mod _

theorem shiftedOutLeft_toNat (a : Byte) : (shiftedOutLeft a).toNat = a.toNat / 128 := by
  have hlt := a.isLt
  rw [shiftedOutLeft, BitVec.msb_eq_decide]
  by_cases h : 128 ≤ a.toNat
  · have hbit : a.toNat / 128 = 1 := by omega
    simp [flagByte, h, hbit]
  · have hbit : a.toNat / 128 = 0 := by omega
    simp [flagByte, h, hbit]

theorem shiftRight_one_toNat (a : Byte) : (a >>> 1).toNat = a.toNat / 2 := by
  rw [BitVec.toNat_ushiftRight, Nat.shiftRight_one]

theorem shiftLeft_one_toNat (a : Byte) : (a <<< 1).toNat = a.toNat * 2 % 256 := by
  rw [BitVec.toNat_shiftLeft, Nat.shiftLeft_eq, pow_one]

/-- A bit shifted out to the right is 0 or 1, so shifting it right again gives 0. -/
theorem shiftedOutRight_shiftRight_one (a : Byte) : shiftedOutRight a >>> 1 = 0 := by
  apply BitVec.eq_of_toNat_eq
  rw [shiftRight_one_toNat, shiftedOutRight_toNat]
  exact Nat.div_eq_of_lt (Nat.mod_lt _ Nat.two_pos)

/-- A bit shifted out to the left is 0 or 1, so doubling it loses nothing. -/
theorem shiftedOutLeft_shiftLeft_one_toNat (a : Byte) : (shiftedOutLeft a <<< 1).toNat = 2 * (a.toNat / 128) := by
  rw [shiftLeft_one_toNat, shiftedOutLeft_toNat]
  omega

/-- VF is written before VX is read for the shift: with VF as the destination the shift reads the bit just
written (R162). -/
theorem completes_of_setFlag_writeV {i : Instr} {s : State} {x : Reg} {f : Byte} (shift : Byte → Byte)
    (h : exec i s = .next ((s.setFlag f).writeV x (shift ((s.setFlag f).readV x)))) :
    Completes i s fun t =>
      (x ≠ VF → t.readV x = shift (s.readV x) ∧ t.readV VF = f) ∧ (x = VF → t.readV VF = shift f) ∧
      OnlyRegs [x, VF] s t ∧ OnlyChanges [.regs] s t :=
  ⟨_, h, fun hx => by simp [hx, hx.symm], fun hx => by simp [hx], s.writeV_writeV_frame (by simp) (by simp) f _⟩

theorem spelledBy_shr (x y : Reg) : SpelledBy 0xF00F 0x8006 (.shr x y) :=
  spelledBy_of_formatXYN rfl rfl (by decide) (by simp [decodeWord, decodeFamily8])

theorem spelledBy_shl (x y : Reg) : SpelledBy 0xF00F 0x800E (.shl x y) :=
  spelledBy_of_formatXYN rfl rfl (by decide) (by simp [decodeWord, decodeFamily8])

/-- Settles O35: no arm reads `Y`, and each shift is one write of VF and then one of VX
(`completes_of_setFlag_writeV`). -/
theorem shiftsWriteTheBitShiftedOut : Obligations.ShiftsWriteTheBitShiftedOut := by
  unfold Obligations.ShiftsWriteTheBitShiftedOut
  refine fun x y => ⟨spelledBy_shr x y, spelledBy_shl x y, fun s => ⟨fun _ => ⟨rfl, rfl⟩, ?right, ?left⟩⟩
  case right =>
    obtain ⟨t, ht, hx, hvf, hframe⟩ := completes_of_setFlag_writeV (i := .shr x y) (s := s) (· >>> 1) rfl
    refine ⟨t, ht, fun hne => ?_, fun heq => ?_, hframe⟩
    · obtain ⟨hshifted, hflag⟩ := hx hne
      exact ⟨hshifted ▸ shiftRight_one_toNat _, hflag ▸ shiftedOutRight_toNat _⟩
    · exact (hvf heq).trans (shiftedOutRight_shiftRight_one _)
  case left =>
    obtain ⟨t, ht, hx, hvf, hframe⟩ := completes_of_setFlag_writeV (i := .shl x y) (s := s) (· <<< 1) rfl
    refine ⟨t, ht, fun hne => ?_, fun heq => ?_, hframe⟩
    · obtain ⟨hshifted, hflag⟩ := hx hne
      exact ⟨hshifted ▸ shiftLeft_one_toNat _, hflag ▸ shiftedOutLeft_toNat _⟩
    · rw [hvf heq, shiftedOutLeft_shiftLeft_one_toNat, heq]

end Sys2Proof.Machine
end

section
/-! Index register and memory (44_index_memory.md): the writes of `I` (O38), the stores of FX33 and FX55 (O39, O40),
and the loads of FX65 (O41). -/

namespace Sys2Proof.Machine

/-! ### Words of format Xkk -/

/-- A word whose low byte is the sub-operation is spelled by the row that leaves `X` alone open (30_encoding.md R76). -/
theorem spelledBy_of_formatXkk {i : Instr} {d : Nibble} {x : Reg} {kk : Byte} {pattern : Word}
    (henc : encode i = formatXNN d x kk) (hpattern : formatXNN d 0#4 kk = pattern)
    (hrow : (⟨0xF0FF, pattern⟩ : OpcodeRow) ∈ opcodeRows) (hdec : decodeWord (formatXNN d x kk) = some i) :
    SpelledBy 0xF0FF pattern i := by
  have hmask := formatXNN_and d (BitVec.allOnes 4) x 0#4 kk (BitVec.allOnes 8)
  rw [BitVec.and_allOnes, BitVec.and_zero, BitVec.and_allOnes, hpattern, ← henc] at hmask
  exact ⟨hrow, hmask, henc ▸ hdec⟩

/-! ### The index register -/

/-- A write of `I` changes no other part. -/
theorem State.setI_onlyChanges (s : State) (w : Word) : OnlyChanges [.index] s (s.setI w) := by
  intro p hp
  cases p with
  | index => simp at hp
  | _ => simp [Part.Same]

theorem spelledBy_ldI (nnn : Addr) : SpelledBy 0xF000 0xA000 (.ldI nnn) :=
  spelledBy_of_formatNNN rfl rfl (by decide) (by simp [decodeWord])

theorem spelledBy_addI (x : Reg) : SpelledBy 0xF0FF 0xF01E (.addI x) :=
  spelledBy_of_formatXkk rfl rfl (by decide) (by simp [decodeWord, decodeFamilyF])

theorem spelledBy_ldF (x : Reg) : SpelledBy 0xF0FF 0xF029 (.ldF x) :=
  spelledBy_of_formatXkk rfl rfl (by decide) (by simp [decodeWord, decodeFamilyF])

/-- Five times a byte fits `I`, so the glyph's address is not cut (44_index_memory.md R182). -/
theorem glyphAddr_toNat (b : Byte) :
    (BitVec.ofNat 16 (Config.fontBase + Config.glyphBytes * b.toNat)).toNat = 0x000 + 5 * b.toNat := by
  simp only [Config.fontBase_eq, Config.glyphBytes_eq, BitVec.toNat_ofNat]
  omega

/-- Settles O38: each form is one write of `I`; of the three values only the sum of FX1E can pass 16 bits. -/
theorem indexRegisterWrites : Obligations.IndexRegisterWrites := by
  unfold Obligations.IndexRegisterWrites
  exact fun nnn x => ⟨spelledBy_ldI nnn, spelledBy_addI x, spelledBy_ldF x, fun s =>
    ⟨⟨_, rfl, zext16_toNat nnn, s.setI_onlyChanges _⟩,
      ⟨_, rfl, BitVec.toNat_ofNat .., s.setI_onlyChanges _⟩,
      ⟨_, rfl, glyphAddr_toNat _, s.setI_onlyChanges _⟩⟩⟩

/-! ### Data at `I` -/

/-- `CheckRange` of `n + 1` bytes is a check of the last one's address (20_memory.md R57). -/
theorem State.dataInRange_succ_iff {s : State} {n : Nat} :
    s.dataInRange (n + 1) = true ↔ s.dataAddr n ≤ 0xFFF := by
  rw [State.dataInRange_iff, State.dataAddr]
  omega

/-- An instruction that accesses the bytes from `I` to `I + n` raises MemoryOutOfRange where the last one is past
memory. -/
theorem raises_of_last_access_past_memory {i : Instr} {s : State} {n : Nat} (hcount : dataAccessCount i = n + 1)
    (hpast : 0xFFF < s.dataAddr n) : Raises i .memoryOutOfRange s :=
  raises_of_access_past_memory ⟨n, by omega, hpast⟩

theorem State.storeData_onlyChanges (s : State) (bytes : List Byte) :
    OnlyChanges [.memory] s (s.storeData bytes) := by
  intro p hp
  cases p with
  | memory => simp at hp
  | _ => simp [Part.Same]

/-- An instruction that stores `n + 1` bytes from `I` on, all in memory: each byte is at its own address and no other
byte changes. -/
theorem completes_of_storeData {i : Instr} {s : State} {bytes : List Byte} {n : Nat}
    (h : exec i s = .next (s.storeData bytes)) (hlen : bytes.length = n + 1) (hin : s.dataAddr n ≤ 0xFFF) :
    Completes i s fun t =>
      (∀ k (hk : k < bytes.length), t.mem.read (s.dataAddr k) = bytes[k]) ∧
      OnlyBytes (s.dataAddr 0) (n + 1) s t ∧ OnlyChanges [.memory] s t := by
  refine ⟨_, h, fun k hk => ?_, fun a ha => ?_, s.storeData_onlyChanges bytes⟩
  · have hfits : s.dataAddr 0 + bytes.length ≤ 4096 := by
      simp only [State.dataAddr] at hin ⊢
      omega
    exact Memory.read_writeBytes_inside bytes s.mem (s.dataAddr 0) k hk hfits
  · exact Memory.read_writeBytes_outside bytes s.mem (s.dataAddr 0) a (hlen ▸ ha)

/-! ### FX33 -/

theorem spelledBy_ldB (x : Reg) : SpelledBy 0xF0FF 0xF033 (.ldB x) :=
  spelledBy_of_formatXkk rfl rfl (by decide) (by simp [decodeWord, decodeFamilyF])

theorem exec_ldB_of_inRange {x : Reg} {s : State} (h : s.dataInRange 3 = true) :
    exec (.ldB x) s = .next (s.storeData (bcdDigits (s.readV x))) := by
  simp [exec, execLdB, h]

@[simp] theorem length_bcdDigits (b : Byte) : (bcdDigits b).length = 3 := rfl

/-- The digits are the hundreds, the tens and the ones; each is below 256, so its byte keeps it whole. -/
theorem bcdDigits_toNat (b : Byte) :
    (bcdDigits b)[0].toNat = b.toNat / 100 ∧ (bcdDigits b)[1].toNat = b.toNat / 10 % 10 ∧
    (bcdDigits b)[2].toNat = b.toNat % 10 := by
  have hb := b.isLt
  exact ⟨Nat.mod_eq_of_lt (by omega), Nat.mod_eq_of_lt (by omega), Nat.mod_eq_of_lt (by omega)⟩

/-- Settles O39: the stored bytes are `bcdDigits`, whose values `bcdDigits_toNat` gives; past memory FX33 raises. -/
theorem bcdStoresThreeDigits : Obligations.BcdStoresThreeDigits := by
  unfold Obligations.BcdStoresThreeDigits
  refine fun x => ⟨spelledBy_ldB x, fun s => ⟨fun hin => ?_, fun hpast => ?_⟩⟩
  · obtain ⟨t, ht, hread, hframe⟩ :=
      completes_of_storeData (exec_ldB_of_inRange (x := x) (State.dataInRange_succ_iff.mpr hin))
        (length_bcdDigits _) hin
    obtain ⟨hundreds, tens, ones⟩ := bcdDigits_toNat (s.readV x)
    refine ⟨t, ht, ?_, ?_, ?_, hframe⟩
    · rw [hread 0 (by simp), hundreds]
    · rw [hread 1 (by simp), tens]
    · rw [hread 2 (by simp), ones]
  · exact raises_of_last_access_past_memory rfl hpast

/-! ### FX55 -/

theorem spelledBy_ldMemVx (x : Reg) : SpelledBy 0xF0FF 0xF055 (.ldMemVx x) :=
  spelledBy_of_formatXkk rfl rfl (by decide) (by simp [decodeWord, decodeFamilyF])

theorem exec_ldMemVx_of_inRange {x : Reg} {s : State} (h : s.dataInRange (x.toNat + 1) = true) :
    exec (.ldMemVx x) s = .next (s.storeData (s.regsUpTo x)) := by
  simp [exec, execLdMemVx, h]

@[simp] theorem State.length_regsUpTo (s : State) (x : Reg) : (s.regsUpTo x).length = x.toNat + 1 := by
  simp only [State.regsUpTo, List.length_take, Vector.length_toList]
  omega

theorem State.getElem_regsUpTo (s : State) (x k : Reg) (h : k.toNat < (s.regsUpTo x).length) :
    (s.regsUpTo x)[k.toNat] = s.readV k := by
  simp [State.regsUpTo, State.readV]

/-- Settles O40: the bytes stored are `regsUpTo`, register `k` at place `k`; past memory FX55 raises. -/
theorem registerStoreWritesV0ToVx : Obligations.RegisterStoreWritesV0ToVx := by
  unfold Obligations.RegisterStoreWritesV0ToVx
  refine fun x => ⟨spelledBy_ldMemVx x, fun s => ⟨fun hin => ?_, fun hpast => ?_⟩⟩
  · have hlen := s.length_regsUpTo x
    obtain ⟨t, ht, hread, hframe⟩ :=
      completes_of_storeData (exec_ldMemVx_of_inRange (State.dataInRange_succ_iff.mpr hin)) hlen hin
    refine ⟨t, ht, fun k hk => ?_, hframe⟩
    rw [hread k.toNat (by omega), State.getElem_regsUpTo]
  · exact raises_of_last_access_past_memory rfl hpast

/-! ### FX65 -/

theorem spelledBy_ldVxMem (x : Reg) : SpelledBy 0xF0FF 0xF065 (.ldVxMem x) :=
  spelledBy_of_formatXkk rfl rfl (by decide) (by simp [decodeWord, decodeFamilyF])

theorem exec_ldVxMem_of_inRange {x : Reg} {s : State} (h : s.dataInRange (x.toNat + 1) = true) :
    exec (.ldVxMem x) s = .next (s.loadRegs x) := by
  simp [exec, execLdVxMem, h]

theorem State.loadRegs_onlyChanges (s : State) (x : Reg) : OnlyChanges [.regs] s (s.loadRegs x) := by
  intro p hp
  cases p with
  | regs => simp at hp
  | _ => simp [Part.Same]

/-- Settles O41: a register up to VX reads its byte and a higher one its old value (`State.readV_loadRegs`); past
memory FX65 raises. -/
theorem registerLoadReadsV0ToVx : Obligations.RegisterLoadReadsV0ToVx := by
  unfold Obligations.RegisterLoadReadsV0ToVx
  refine fun x => ⟨spelledBy_ldVxMem x, fun s => ⟨fun hin => ?_, fun hpast => ?_⟩⟩
  · refine ⟨_, exec_ldVxMem_of_inRange (State.dataInRange_succ_iff.mpr hin), fun k hk => ?_, fun k hk => ?_,
      s.loadRegs_onlyChanges x⟩
    · rw [State.readV_loadRegs, if_pos hk]
    · rw [State.readV_loadRegs, if_neg (Nat.not_le.mpr hk)]
  · exact raises_of_last_access_past_memory rfl hpast

end Sys2Proof.Machine
end

section
/-! Keys and timers (45_keys_timers.md): the skips on a key (O44), the wait for a key (O46), and the moves between a
register and the timers (O45). -/

namespace Sys2Proof.Machine

/-! ### Skips on a key -/

/-- `KeyAt` of a byte that names key `k` is that key's level (45_keys_timers.md R200). -/
theorem State.keyAt_of_toNat_eq {s : State} {b : Byte} {k : Fin 16} (h : b.toNat = k.val) :
    s.keyAt b = some s.key[k] := by
  simp [State.keyAt, h]

theorem exec_skp_of_keyAt {x : Reg} {s : State} {pressed : Bool} (h : s.keyAt (s.readV x) = some pressed) :
    exec (.skp x) s = .next (s.skipIf pressed) := by
  simp [exec, execSkp, h]

theorem exec_sknp_of_keyAt {x : Reg} {s : State} {pressed : Bool} (h : s.keyAt (s.readV x) = some pressed) :
    exec (.sknp x) s = .next (s.skipIf !pressed) := by
  simp [exec, execSknp, h]

theorem exec_skp_of_no_key {x : Reg} {s : State} (h : 15 < (s.readV x).toNat) :
    exec (.skp x) s = .next (s.raiseIn .keyIndexOutOfRange (.skp x)) := by
  simp [exec, execSkp, State.keyAt_eq_none.mpr h]

theorem exec_sknp_of_no_key {x : Reg} {s : State} (h : 15 < (s.readV x).toNat) :
    exec (.sknp x) s = .next (s.raiseIn .keyIndexOutOfRange (.sknp x)) := by
  simp [exec, execSknp, State.keyAt_eq_none.mpr h]

/-- An instruction that skips on a level. -/
theorem completes_of_skipIf {i : Instr} {s : State} {c : Bool} (h : exec i s = .next (s.skipIf c)) :
    Completes i s fun t => (c = true → t.pc = s.pc + 2) ∧ (c = false → t.pc = s.pc) ∧ OnlyChanges [.pc] s t := by
  refine ⟨_, h, fun htrue => ?_, fun hfalse => ?_, s.skipIf_onlyChanges c⟩
  · simp [State.skipIf_cases, htrue]
  · simp [State.skipIf_cases, hfalse]

theorem spelledBy_skp (x : Reg) : SpelledBy 0xF0FF 0xE09E (.skp x) :=
  spelledBy_of_formatXkk rfl rfl (by decide) (by simp [decodeWord, decodeFamilyE])

theorem spelledBy_sknp (x : Reg) : SpelledBy 0xF0FF 0xE0A1 (.sknp x) :=
  spelledBy_of_formatXkk rfl rfl (by decide) (by simp [decodeWord, decodeFamilyE])

/-- Settles O44: a value up to 15 names a key, whose level (SKP) or its complement (SKNP) is the skip's condition; a
value above 15 names none and raises. -/
theorem keySkips : Obligations.KeySkips := by
  unfold Obligations.KeySkips
  refine fun x => ⟨spelledBy_skp x, spelledBy_sknp x, fun s => ⟨fun k hk => ?_, fun hpast => ?_⟩⟩
  · have hkey : s.keyAt (s.readV x) = some s.key[k] := State.keyAt_of_toNat_eq hk
    refine ⟨completes_of_skipIf (exec_skp_of_keyAt hkey), ?_⟩
    simpa using completes_of_skipIf (exec_sknp_of_keyAt hkey)
  · exact ⟨raises_of_exec_eq_raiseIn (exec_skp_of_no_key hpast),
      raises_of_exec_eq_raiseIn (exec_sknp_of_no_key hpast)⟩

/-! ### The wait for a key -/

/-- The scan finds a pressed key below which none is pressed. -/
theorem State.leastKey_of_least {s : State} {k : Fin 16} (hpressed : s.key[k] = true)
    (hbelow : ∀ j : Fin 16, j.val < k.val → s.key[j] = false) : s.leastKey = some k.val := by
  rw [State.leastKey, List.findIdx?_eq_some_iff_getElem]
  refine ⟨by simp, by simpa using hpressed, fun j hj => ?_⟩
  simpa using hbelow ⟨j, hj.trans k.isLt⟩ hj

theorem exec_ldVxK_of_leastKey {x : Reg} {s : State} {k : Nat} (h : s.leastKey = some k) :
    exec (.ldVxK x) s = .next (s.writeV x (BitVec.ofNat 8 k)) := by
  simp [exec, execLdVxK, h]

theorem exec_ldVxK_of_no_key {x : Reg} {s : State} (h : s.leastKey = none) :
    exec (.ldVxK x) s = .next (s.setPc (s.pc - 2)) := by
  simp [exec, execLdVxK, h, State.rewind]

/-- A key's index fits a register. -/
theorem keyIndex_toNat (k : Fin 16) : (BitVec.ofNat 8 k.val).toNat = k.val := by
  rw [BitVec.toNat_ofNat]
  omega

theorem spelledBy_ldVxK (x : Reg) : SpelledBy 0xF0FF 0xF00A (.ldVxK x) :=
  spelledBy_of_formatXkk rfl rfl (by decide) (by simp [decodeWord, decodeFamilyF])

/-- Settles O46: with a least pressed key the scan finds it and its index is written to VX; with no key pressed it
finds none and `PC` goes back. -/
theorem keyWaitLoadsTheLeastKeyOrRewinds : Obligations.KeyWaitLoadsTheLeastKeyOrRewinds := by
  unfold Obligations.KeyWaitLoadsTheLeastKeyOrRewinds
  refine fun x => ⟨spelledBy_ldVxK x, fun s => ⟨fun k hpressed hbelow => ?_, fun hnone => ?_⟩⟩
  · obtain ⟨t, ht, hx, hframe⟩ :=
      completes_of_writeV (exec_ldVxK_of_leastKey (x := x) (State.leastKey_of_least hpressed hbelow))
    exact ⟨t, ht, hx ▸ keyIndex_toNat k, hframe⟩
  · exact ⟨_, exec_ldVxK_of_no_key (State.leastKey_eq_none.mpr hnone), s.setPc_pc _, s.setPc_onlyChanges _⟩

/-! ### The timers -/

/-- A write of `DT` changes no other part. -/
theorem State.setDt_onlyChanges (s : State) (b : Byte) : OnlyChanges [.delay] s (s.setDt b) := by
  intro p hp
  cases p with
  | delay => simp at hp
  | _ => simp [Part.Same]

/-- A write of `ST` changes no other part. -/
theorem State.setSt_onlyChanges (s : State) (b : Byte) : OnlyChanges [.sound] s (s.setSt b) := by
  intro p hp
  cases p with
  | sound => simp at hp
  | _ => simp [Part.Same]

theorem spelledBy_ldVxDt (x : Reg) : SpelledBy 0xF0FF 0xF007 (.ldVxDt x) :=
  spelledBy_of_formatXkk rfl rfl (by decide) (by simp [decodeWord, decodeFamilyF])

theorem spelledBy_ldDtVx (x : Reg) : SpelledBy 0xF0FF 0xF015 (.ldDtVx x) :=
  spelledBy_of_formatXkk rfl rfl (by decide) (by simp [decodeWord, decodeFamilyF])

theorem spelledBy_ldStVx (x : Reg) : SpelledBy 0xF0FF 0xF018 (.ldStVx x) :=
  spelledBy_of_formatXkk rfl rfl (by decide) (by simp [decodeWord, decodeFamilyF])

/-- Settles O45: each move is one write, of VX, of `DT` or of `ST`. -/
theorem timerMoves : Obligations.TimerMoves := by
  unfold Obligations.TimerMoves
  exact fun x => ⟨spelledBy_ldVxDt x, spelledBy_ldDtVx x, spelledBy_ldStVx x, fun s =>
    ⟨completes_of_writeV rfl, ⟨_, rfl, s.setDt_dt _, s.setDt_onlyChanges _⟩,
      ⟨_, rfl, s.setSt_st _, s.setSt_onlyChanges _⟩⟩⟩

end Sys2Proof.Machine
end

section
/-! The decoder against the opcode table (30_encoding.md R76 to R79), as the faults of a CYCLE need it: the word of a
decoded instruction is the one it was decoded from, and the words without an instruction are those no row admits. -/

namespace Sys2Proof.Machine

/-! ### The row of an instruction -/

/-- Every instruction is spelled by a row of the opcode table. -/
theorem exists_spelledBy (i : Instr) : ∃ mask pattern, SpelledBy mask pattern i := by
  cases i with
  | nop => exact ⟨_, _, nopChangesNothing.1⟩
  | cls => exact ⟨_, _, spelledBy_cls⟩
  | ret => exact ⟨_, _, spelledBy_ret⟩
  | jp nnn => exact ⟨_, _, spelledBy_jp nnn⟩
  | call nnn => exact ⟨_, _, spelledBy_call nnn⟩
  | seImm x nn => exact ⟨_, _, spelledBy_seImm x nn⟩
  | sneImm x nn => exact ⟨_, _, spelledBy_sneImm x nn⟩
  | seReg x y => exact ⟨_, _, spelledBy_seReg x y⟩
  | ldImm x nn => exact ⟨_, _, spelledBy_ldImm x nn⟩
  | addImm x nn => exact ⟨_, _, spelledBy_addImm x nn⟩
  | ldReg x y => exact ⟨_, _, spelledBy_ldReg x y⟩
  | orReg x y => exact ⟨_, _, spelledBy_orReg x y⟩
  | andReg x y => exact ⟨_, _, spelledBy_andReg x y⟩
  | xorReg x y => exact ⟨_, _, spelledBy_xorReg x y⟩
  | addReg x y => exact ⟨_, _, spelledBy_addReg x y⟩
  | subReg x y => exact ⟨_, _, spelledBy_subReg x y⟩
  | shr x y => exact ⟨_, _, spelledBy_shr x y⟩
  | subnReg x y => exact ⟨_, _, spelledBy_subnReg x y⟩
  | shl x y => exact ⟨_, _, spelledBy_shl x y⟩
  | sneReg x y => exact ⟨_, _, spelledBy_sneReg x y⟩
  | ldI nnn => exact ⟨_, _, spelledBy_ldI nnn⟩
  | jpV0 nnn => exact ⟨_, _, spelledBy_jpV0 nnn⟩
  | rnd x nn => exact ⟨0xF000, 0xC000, spelledBy_of_formatXNN rfl rfl (by decide) (by simp [decodeWord])⟩
  | drw x y n => exact ⟨_, _, spelledBy_drw x y n⟩
  | skp x => exact ⟨_, _, spelledBy_skp x⟩
  | sknp x => exact ⟨_, _, spelledBy_sknp x⟩
  | ldVxDt x => exact ⟨_, _, spelledBy_ldVxDt x⟩
  | ldVxK x => exact ⟨_, _, spelledBy_ldVxK x⟩
  | ldDtVx x => exact ⟨_, _, spelledBy_ldDtVx x⟩
  | ldStVx x => exact ⟨_, _, spelledBy_ldStVx x⟩
  | addI x => exact ⟨_, _, spelledBy_addI x⟩
  | ldF x => exact ⟨_, _, spelledBy_ldF x⟩
  | ldB x => exact ⟨_, _, spelledBy_ldB x⟩
  | ldMemVx x => exact ⟨_, _, spelledBy_ldMemVx x⟩
  | ldVxMem x => exact ⟨_, _, spelledBy_ldVxMem x⟩

/-! ### The word of a decoded instruction -/

theorem encode_of_decodeFamily0 {w : Word} {i : Instr} (h : decodeFamily0 w = some i) : encode i = w := by
  unfold decodeFamily0 at h
  split at h <;> cases h <;> rfl

theorem encode_of_decodeFamily8 {w : Word} {i : Instr} (hd : fieldD1 w = 0x8) (h : decodeFamily8 w = some i) :
    encode i = w := by
  have hw := word_eq_formatXYN w
  unfold decodeFamily8 at h
  split at h <;> cases h
  all_goals simpa [encode, *] using hw

theorem encode_of_decodeFamilyE {w : Word} {i : Instr} (hd : fieldD1 w = 0xE) (h : decodeFamilyE w = some i) :
    encode i = w := by
  have hw := word_eq_formatXNN w
  unfold decodeFamilyE at h
  split at h <;> cases h
  all_goals simpa [encode, *] using hw

theorem encode_of_decodeFamilyF {w : Word} {i : Instr} (hd : fieldD1 w = 0xF) (h : decodeFamilyF w = some i) :
    encode i = w := by
  have hw := word_eq_formatXNN w
  unfold decodeFamilyF at h
  split at h <;> cases h
  all_goals simpa [encode, *] using hw

theorem decodeWhenN0_eq_some {w : Word} {i j : Instr} (h : decodeWhenN0 w j = some i) : fieldN w = 0 ∧ j = i := by
  unfold decodeWhenN0 at h
  split at h
  · next hn => exact ⟨hn, Option.some.inj h⟩
  · cases h

/-- The word an instruction was decoded from is the instruction's word (30_encoding.md R79). -/
theorem encode_of_decodeWord {w : Word} {i : Instr} (h : decodeWord w = some i) : encode i = w := by
  have hNNN := word_eq_formatNNN w
  have hXNN := word_eq_formatXNN w
  have hXYN := word_eq_formatXYN w
  unfold decodeWord at h
  split at h
  case h_1 => exact encode_of_decodeFamily0 h
  case h_6 | h_10 =>
    obtain ⟨hn, rfl⟩ := decodeWhenN0_eq_some h
    simpa [encode, *] using hXYN
  case h_9 hd => exact encode_of_decodeFamily8 hd h
  case h_15 hd => exact encode_of_decodeFamilyE hd h
  case h_16 hd => exact encode_of_decodeFamilyF hd h
  case h_17 => cases h
  case h_2 hd | h_3 hd | h_11 hd | h_12 hd =>
    cases h
    simpa [encode, hd] using hNNN
  case h_14 hd =>
    cases h
    simpa [encode, hd] using hXYN
  case h_4 hd | h_5 hd | h_7 hd | h_8 hd | h_13 hd =>
    cases h
    simpa [encode, hd] using hXNN

/-! ### The words a row admits -/

/-- Whether a word is legal depends on the fields its family is decoded by (30_encoding.md R77): the whole word in
family 0, the last nibble in 5, 8 and 9, the last byte in E and F. -/
theorem decodeWord_isSome_congr {w p : Word} (hd : fieldD1 w = fieldD1 p) (hw : fieldD1 p = 0x0 → w = p)
    (hn : fieldD1 p ∈ ([0x5, 0x8, 0x9] : List Nibble) → fieldN w = fieldN p)
    (hnn : fieldD1 p ∈ ([0xE, 0xF] : List Nibble) → fieldNN w = fieldNN p) :
    (decodeWord w).isSome = (decodeWord p).isSome := by
  unfold decodeWord decodeWhenN0 decodeFamily8 decodeFamilyE decodeFamilyF
  rw [hd]
  split
  case h_1 e => rw [hw e]
  case h_6 e | h_9 e | h_10 e =>
    rw [hn (by simp [e])]
    split <;> rfl
  case h_15 e | h_16 e =>
    rw [hnn (by simp [e])]
    split <;> rfl
  all_goals rfl

/-- A mask with a field's bits all set keeps that field: words a row admits have its pattern's. -/
theorem extractLsb'_eq_of_and_eq {w m p : Word} {start len : Nat} (h : w &&& m = p)
    (hm : m.extractLsb' start len = BitVec.allOnes len) : w.extractLsb' start len = p.extractLsb' start len := by
  rw [← h, BitVec.extractLsb'_and, hm, BitVec.and_allOnes]

/-- A row's pattern is legal, and its mask keeps the fields that the pattern's family is decoded by. -/
def RowFixesItsFields (row : OpcodeRow) : Prop :=
  (decodeWord row.pattern).isSome = true ∧ fieldD1 row.mask = BitVec.allOnes 4 ∧
  (fieldD1 row.pattern = 0x0 → row.mask = BitVec.allOnes 16) ∧
  (fieldD1 row.pattern ∈ ([0x5, 0x8, 0x9] : List Nibble) → fieldN row.mask = BitVec.allOnes 4) ∧
  (fieldD1 row.pattern ∈ ([0xE, 0xF] : List Nibble) → fieldNN row.mask = BitVec.allOnes 8)

theorem rowFixesItsFields {row : OpcodeRow} (h : row ∈ opcodeRows) : RowFixesItsFields row := by
  have hall : ∀ r ∈ opcodeRows, RowFixesItsFields r := by
    unfold RowFixesItsFields
    decide
  exact hall row h

/-- A word that a row admits is legal. -/
theorem decodeWord_isSome_of_row {w : Word} {row : OpcodeRow} (hrow : row ∈ opcodeRows)
    (h : w &&& row.mask = row.pattern) : (decodeWord w).isSome = true := by
  obtain ⟨hlegal, hd, hw, hn, hnn⟩ := rowFixesItsFields hrow
  rw [← hlegal]
  refine decodeWord_isSome_congr (extractLsb'_eq_of_and_eq h hd) (fun e => ?_)
    (fun e => extractLsb'_eq_of_and_eq h (hn e)) (fun e => extractLsb'_eq_of_and_eq h (hnn e))
  rwa [hw e, BitVec.and_allOnes] at h

theorem exists_row_of_decodeWord {w : Word} {i : Instr} (h : decodeWord w = some i) :
    ∃ row ∈ opcodeRows, w &&& row.mask = row.pattern := by
  obtain ⟨mask, pattern, hrow, hmask, -⟩ := exists_spelledBy i
  exact ⟨_, hrow, encode_of_decodeWord h ▸ hmask⟩

/-- A word is illegal exactly if no row admits it (30_encoding.md R78). -/
theorem decodeWord_eq_none_iff {w : Word} :
    decodeWord w = none ↔ ∀ row ∈ opcodeRows, w &&& row.mask ≠ row.pattern := by
  constructor
  · intro hnone row hrow h
    simpa [hnone] using decodeWord_isSome_of_row hrow h
  · intro h
    rw [Option.eq_none_iff_forall_ne_some]
    intro i hi
    obtain ⟨row, hrow, hadmits⟩ := exists_row_of_decodeWord hi
    exact h row hrow hadmits

end Sys2Proof.Machine
end

section
/-! The host's transactions on the devices (60_exceptions.md): TICK on the timers (O17), SETKEY on the keypad (O18) and
GETDISPLAY on the display (O19). -/

namespace Sys2Proof.Machine

/-- No phase but Halted stops a transaction that is neither a CYCLE nor a LOAD (10_state.md R41). -/
theorem step_of_ne_halted {s : State} {x : Transaction} (hphase : s.phase ≠ .halted) (hx : s.port.next = x)
    (hcycle : ∀ r, x ≠ .cycle r) (hload : ∀ bytes, x ≠ .load bytes) :
    step s = (s.setPort s.port.taken).transact x :=
  step_of_move hx ((Phase.stuck_eq_none_iff _ _).mpr
    ⟨hphase, fun r e => absurd e (hcycle r), fun bytes e => absurd e (hload bytes)⟩)

theorem step_of_halted {s : State} (h : s.phase = .halted) (t : State) : step s ≠ .next t := by
  rw [step_of_stuck rfl (h ▸ stuck_halted _)]
  exact nofun

/-! ### TICK -/

/-- One count of a timer: down to 0, never below (60_exceptions.md R232). -/
def countDown (b : Byte) : Byte := if b = 0 then 0 else b - 1

theorem countDown_toNat (b : Byte) : (countDown b).toNat = b.toNat - 1 := by
  unfold countDown
  split
  · next h => simp [h]
  · next h => bv_omega

/-- "Decrement if nonzero" writes the count: where the timer is 0, writing it back changes nothing. -/
theorem setTimer_eq_countDown (setTimer : Byte → State) (b : Byte) :
    (if b != 0 then setTimer (b - 1) else setTimer b) = setTimer (countDown b) := by
  unfold countDown
  split
  · next h => rw [if_neg (bne_iff_ne.mp h)]
  · next h =>
    have hzero : b = 0 := by simpa using h
    rw [if_pos hzero, hzero]

/-- A TICK counts both timers and answers the host (60_exceptions.md R232). -/
theorem State.tick_eq (s : State) :
    s.tick = ((s.setDt (countDown s.dt)).setSt (countDown s.st)).respond (.beep (s.st == 1)) := by
  have hdt : (if s.dt != 0 then s.setDt (s.dt - 1) else s) = s.setDt (countDown s.dt) :=
    setTimer_eq_countDown s.setDt s.dt
  have hst := setTimer_eq_countDown (s.setDt (countDown s.dt)).setSt s.st
  rw [← hst]
  simp only [State.tick, hdt, State.setDt_st]
  rfl

theorem beq_one_eq_decide_toNat (b : Byte) : (b == 1) = decide (b.toNat = 1) := by
  rw [Bool.eq_iff_iff, beq_iff_eq, decide_eq_true_iff, ← BitVec.toNat_inj]
  rfl

/-- Settles O17: a TICK writes the two counts and answers the host (`State.tick_eq`). -/
theorem tickCountsDownAndBeeps : Obligations.TickCountsDownAndBeeps := by
  unfold Obligations.TickCountsDownAndBeeps
  refine fun s hx => ⟨step_of_halted, fun hphase => ⟨(s.setPort s.port.taken).tick, ?_, ?_⟩⟩
  · exact step_of_ne_halted hphase hx nofun nofun
  · rw [State.tick_eq]
    refine ⟨countDown_toNat s.dt, countDown_toNat s.st, by rw [beq_one_eq_decide_toNat]; rfl, fun p hp => ?_⟩
    cases p with
    | delay | sound | port => simp at hp
    | _ => simp [Part.Same]

/-! ### SETKEY -/

/-- Settles O18: the write of the key is a `Vector.set`, and answering the host writes its port alone. -/
theorem setKeyWritesOneKey : Obligations.SetKeyWritesOneKey := by
  unfold Obligations.SetKeyWritesOneKey
  intro s k pressed hphase hx
  refine ⟨(s.setPort s.port.taken).pressKey k pressed, step_of_ne_halted hphase hx nofun nofun, fun j => ?_, rfl,
    fun p hp => ?_⟩
  · simp [State.pressKey, Vector.getElem_set, eq_comm]
  · cases p with
    | keys | port => simp at hp
    | _ => simp [Part.Same, State.pressKey]

/-! ### GETDISPLAY -/

/-- Settles O19: the response is the state's own display. -/
theorem getDisplayReturnsThePixels : Obligations.GetDisplayReturnsThePixels := by
  unfold Obligations.GetDisplayReturnsThePixels
  intro s hphase hx
  refine ⟨(s.setPort s.port.taken).getDisplay, s.disp, step_of_ne_halted hphase hx nofun nofun, rfl, fun _ => rfl,
    fun p hp => ?_⟩
  cases p with
  | port => simp at hp
  | _ => simp [Part.Same, State.getDisplay]

end Sys2Proof.Machine
end

section
/-! The table of faults (60_exceptions.md R220 to R223): each condition raises its fault and no other does (O48), and a
faulting transaction commits nothing and is the last (O49). -/

namespace Sys2Proof.Machine

/-! ### An instruction's own check -/

/-- The fault that the instruction's own check raises in a state, if it fails (60_exceptions.md R223: "at most one per
instruction"). -/
def failedCheck (i : Instr) (s : State) : Option FaultReason :=
  match i with
  | .ret => if s.sp.val = 0 then some .stackUnderflow else none
  | .call _ => if s.sp.val = 16 then some .stackOverflow else none
  | .skp x => if 15 < (s.readV x).toNat then some .keyIndexOutOfRange else none
  | .sknp x => if 15 < (s.readV x).toNat then some .keyIndexOutOfRange else none
  | .drw _ _ n => if s.dataInRange n.toNat then none else some .memoryOutOfRange
  | .ldB _ => if s.dataInRange 3 then none else some .memoryOutOfRange
  | .ldMemVx x => if s.dataInRange (x.toNat + 1) then none else some .memoryOutOfRange
  | .ldVxMem x => if s.dataInRange (x.toNat + 1) then none else some .memoryOutOfRange
  | _ => none

/-- The check reads no part of the state that taking a transaction or beginning a CYCLE writes. -/
theorem failedCheck_beginCycle (i : Instr) (s : State) (p : HostPort) (r : Option Byte) :
    failedCheck i ((s.setPort p).beginCycle r) = failedCheck i s := by
  cases i <;> rfl

theorem failedCheck_eq_stackUnderflow {i : Instr} {s : State} :
    failedCheck i s = some .stackUnderflow ↔ i = .ret ∧ s.sp.val = 0 := by
  cases i <;> simp [failedCheck]

theorem failedCheck_eq_stackOverflow {i : Instr} {s : State} :
    failedCheck i s = some .stackOverflow ↔ (∃ nnn, i = .call nnn) ∧ s.sp.val = 16 := by
  cases i <;> simp [failedCheck]

theorem failedCheck_eq_keyIndexOutOfRange {i : Instr} {s : State} :
    failedCheck i s = some .keyIndexOutOfRange ↔ ∃ x, (i = .skp x ∨ i = .sknp x) ∧ 15 < (s.readV x).toNat := by
  cases i <;> simp [failedCheck]

theorem failedCheck_eq_memoryOutOfRange {i : Instr} {s : State} :
    failedCheck i s = some .memoryOutOfRange ↔
      (∃ x y n, i = .drw x y n ∧ ∃ k, k < n.toNat ∧ 0xFFF < s.i.toNat + k) ∨
      (∃ x, i = .ldB x ∧ ∃ k, k < 3 ∧ 0xFFF < s.i.toNat + k) ∨
      (∃ x, i = .ldMemVx x ∧ ∃ k, k ≤ x.toNat ∧ 0xFFF < s.i.toNat + k) ∨
      (∃ x, i = .ldVxMem x ∧ ∃ k, k ≤ x.toNat ∧ 0xFFF < s.i.toNat + k) := by
  cases i <;> simp [failedCheck, State.dataInRange_eq_false_iff, Nat.lt_succ_iff, Nat.succ_le_iff]

/-- The faults that are raised before an instruction is decoded are none of an instruction's. -/
theorem failedCheck_ne (i : Instr) (s : State) :
    failedCheck i s ≠ some .loadTooLarge ∧ failedCheck i s ≠ some .fetchOutOfRange ∧
      failedCheck i s ≠ some .unimplementedOpcode := by
  cases i <;> simp [failedCheck]

/-- Executing an instruction raises the fault of its failed check; where the check holds, the phase and the
answer to the host stay as they are. -/
theorem exec_raises_or_completes {i : Instr} {s t : State} (h : exec i s = .next t) :
    (∃ reason, failedCheck i s = some reason ∧ t = s.raiseIn reason i) ∨
    (failedCheck i s = none ∧ t.phase = s.phase ∧ t.port.response = s.port.response) := by
  cases exec_effect h with
  | retFault _ hc | callFault _ _ hc | drwFault _ _ _ _ hc | skpFault _ _ hc | sknpFault _ _ hc | ldBFault _ _ hc
  | ldMemVxFault _ _ hc | ldVxMemFault _ _ hc =>
    exact .inl ⟨_, by simp only [failedCheck, hc, if_true, if_false, Bool.false_eq_true], rfl⟩
  | ret _ _ hc | drw _ _ _ _ hc | ldB _ _ hc | ldMemVx _ _ hc | ldVxMem _ _ hc =>
    exact .inr ⟨by simp only [failedCheck, hc, if_true, if_false], by simp, by simp⟩
  | call _ _ hc => exact .inr ⟨by simp [failedCheck, hc.ne], rfl, rfl⟩
  | skp _ _ _ hc | sknp _ _ _ hc =>
    have hk := Option.ne_none_iff_exists'.mpr ⟨_, hc⟩
    rw [Ne, State.keyAt_eq_none] at hk
    exact .inr ⟨by simp [failedCheck, hk], by simp [State.skipIf_cases], by simp [State.skipIf_cases]⟩
  | _ => exact .inr ⟨rfl, by simp [State.skipIf_cases], by simp [State.skipIf_cases]⟩

/-! ### The fault that is due -/

theorem State.cycleFetches_iff {s : State} {r : Option Byte} {w : Word} (hx : s.port.next = .cycle r) :
    s.CycleFetches w ↔ s.fetch16 s.pc = some w := by
  simp [State.CycleFetches, State.CycleIsNext, hx]

section
variable {s : State} {r : Option Byte} {w : Word} {i : Instr} {reason : FaultReason} {opcode : Option Word}

theorem State.faultDue_iff_of_load {bytes : List Byte} (hx : s.port.next = .load bytes) :
    s.FaultDue reason opcode ↔ 3584 < bytes.length ∧ reason = .loadTooLarge ∧ opcode = none := by
  cases reason <;> simp [State.FaultDue, State.CycleFetches, State.CycleIsNext, hx, and_comm]

/-- Only LOAD and CYCLE can fault. -/
theorem State.not_faultDue (hload : ∀ bytes, s.port.next ≠ .load bytes) (hcycle : ∀ r, s.port.next ≠ .cycle r) :
    ¬ s.FaultDue reason opcode := by
  cases reason <;> simp [State.FaultDue, State.CycleFetches, State.CycleIsNext, hload, hcycle]

theorem State.faultDue_iff_of_no_fetch (hx : s.port.next = .cycle r) (hf : s.fetch16 s.pc = none) :
    s.FaultDue reason opcode ↔ reason = .fetchOutOfRange ∧ opcode = none := by
  have hnext : s.CycleIsNext := ⟨r, hx⟩
  have hpast := State.fetch16_eq_none.mp hf
  cases reason <;> simp [State.FaultDue, State.cycleFetches_iff hx, hnext, hx, hf, hpast]

theorem State.faultDue_iff_of_illegal (hx : s.port.next = .cycle r) (hf : s.fetch16 s.pc = some w)
    (hd : decodeWord w = none) :
    s.FaultDue reason opcode ↔ reason = .unimplementedOpcode ∧ opcode = some w := by
  have hin := (State.fetch16_eq_some.mp hf).1.not_gt
  have hrow := decodeWord_eq_none_iff.mp hd
  cases reason with
  | unimplementedOpcode => simpa [State.FaultDue, State.cycleFetches_iff hx, hf] using fun _ => hrow
  | _ => simp [State.FaultDue, State.cycleFetches_iff hx, hx, hf, hd, hin]

theorem State.faultDue_iff_of_decoded (hx : s.port.next = .cycle r) (hf : s.fetch16 s.pc = some w)
    (hd : decodeWord w = some i) :
    s.FaultDue reason opcode ↔ failedCheck i s = some reason ∧ opcode = some w := by
  have hin := (State.fetch16_eq_some.mp hf).1.not_gt
  obtain ⟨hload, hfetch, hlegal⟩ := failedCheck_ne i s
  have hrow := exists_row_of_decodeWord hd
  cases reason with
  | unimplementedOpcode => simp [State.FaultDue, State.cycleFetches_iff hx, hf, hlegal, hrow]
  | memoryOutOfRange =>
    simp [State.FaultDue, State.cycleFetches_iff hx, hf, hd, failedCheck_eq_memoryOutOfRange, and_comm]
  | stackOverflow =>
    simp [State.FaultDue, State.cycleFetches_iff hx, hf, hd, failedCheck_eq_stackOverflow, and_comm]
  | stackUnderflow =>
    simp [State.FaultDue, State.cycleFetches_iff hx, hf, hd, failedCheck_eq_stackUnderflow, and_comm]
  | keyIndexOutOfRange =>
    simp [State.FaultDue, State.cycleFetches_iff hx, hf, hd, failedCheck_eq_keyIndexOutOfRange, and_comm]
  | _ => simp [State.FaultDue, hx, hin, hload, hfetch]
end

/-! ### What a step does about the fault that is due -/

/-- One fault is due, and it is raised with the state's own `PC`. -/
def RaisesTheFaultDue (s t : State) : Prop :=
  ∃ reason opcode p, (∀ r o, s.FaultDue r o ↔ r = reason ∧ o = opcode) ∧ t = (s.setPort p).raise reason s.pc opcode

/-- No fault is due, and none is raised or returned to the host. -/
def CompletesWithNoFaultDue (s t : State) : Prop :=
  (∀ r o, ¬ s.FaultDue r o) ∧ t.phase ≠ .halted ∧ ∀ reason, t.port.response ≠ .faulted reason

/-- A fault inside a CYCLE's instruction is raised with `PC` before the cycle and the instruction's word. -/
theorem State.beginCycle_raiseIn (s : State) (p : HostPort) (r : Option Byte) (reason : FaultReason) (i : Instr) :
    ((s.setPort p).beginCycle r).raiseIn reason i =
      (s.setPort { p with random := r, response := .ok }).raise reason s.pc (some (encode i)) := by
  simp [State.raiseIn, State.raise, State.setPort]

theorem cycle_raises_or_completes {s t : State} {r : Option Byte} (hx : s.port.next = .cycle r)
    (h : (s.setPort s.port.taken).cycle r = .next t) : RaisesTheFaultDue s t ∨ CompletesWithNoFaultDue s t := by
  obtain ⟨hf, e⟩ | ⟨w, hf, hd, e⟩ | ⟨w, i, hf, hd, e⟩ := (s.setPort s.port.taken).cycle_cases r
  · cases e.symm.trans h
    exact .inl ⟨_, _, _, fun _ _ => State.faultDue_iff_of_no_fetch hx hf, rfl⟩
  · cases e.symm.trans h
    exact .inl ⟨_, _, _, fun _ _ => State.faultDue_iff_of_illegal hx hf hd, rfl⟩
  · have hdue := fun reason opcode => State.faultDue_iff_of_decoded (reason := reason) (opcode := opcode) hx hf hd
    obtain ⟨reason, hcheck, rfl⟩ | ⟨hcheck, hphase, hresponse⟩ := exec_raises_or_completes (e.symm.trans h)
    · rw [failedCheck_beginCycle] at hcheck
      refine .inl ⟨reason, some w, _, fun r o => ?_, encode_of_decodeWord hd ▸ State.beginCycle_raiseIn ..⟩
      rw [hdue, hcheck, Option.some.injEq, eq_comm (a := reason)]
    · rw [failedCheck_beginCycle] at hcheck
      exact .inr ⟨by simp [hdue, hcheck], by simp [hphase], by simp [hresponse]⟩

theorem load_raises_or_completes {s : State} {bytes : List Byte} (hx : s.port.next = .load bytes) :
    RaisesTheFaultDue s ((s.setPort s.port.taken).loadProgram bytes) ∨
      CompletesWithNoFaultDue s ((s.setPort s.port.taken).loadProgram bytes) := by
  have hdue := fun reason opcode => State.faultDue_iff_of_load (reason := reason) (opcode := opcode) hx
  unfold State.loadProgram
  split
  · next hlong =>
    exact .inl ⟨.loadTooLarge, none, s.port.taken, fun r o => by simpa [hdue] using fun _ _ => hlong, rfl⟩
  · next hshort => exact .inr ⟨fun r o => by simpa [hdue] using fun hlong => absurd hlong hshort, by simp, by simp⟩

/-- Everything a step can do about faults, said once: it raises the one that is due, or none is due and it completes. -/
theorem step_raises_or_completes {s t : State} (h : step s = .next t) :
    RaisesTheFaultDue s t ∨ CompletesWithNoFaultDue s t := by
  obtain ⟨hmove, ht⟩ := step_eq_next h
  have hphase := ne_halted_of_stuck_eq_none hmove
  cases hx : s.port.next with
  | cycle r => exact cycle_raises_or_completes hx (by rwa [hx] at ht)
  | load bytes =>
    rw [hx] at ht
    cases ht
    exact load_raises_or_completes hx
  | reset =>
    rw [hx] at ht
    cases ht
    exact .inr ⟨fun _ _ => State.not_faultDue (by simp [hx]) (by simp [hx]), nofun, nofun⟩
  | tick | getDisplay | setKey =>
    rw [hx] at ht
    cases ht
    exact .inr ⟨fun _ _ => State.not_faultDue (by simp [hx]) (by simp [hx]),
      by simpa [State.tick_eq, State.getDisplay, State.pressKey] using hphase,
      by simp [State.tick_eq, State.getDisplay, State.pressKey]⟩

/-! ### The statements -/

/-- Settles O48: a step either raises the one fault that is due, or none is due and the core is not Halted after it
(`step_raises_or_completes`). -/
theorem faultsComeExactlyFromTheirConditions : Obligations.FaultsComeExactlyFromTheirConditions := by
  unfold Obligations.FaultsComeExactlyFromTheirConditions
  refine ⟨fun s t hstep => ?_, rfl⟩
  obtain ⟨reason, opcode, p, hdue, rfl⟩ | ⟨hnone, hphase, -⟩ := step_raises_or_completes hstep
  · refine ⟨fun r o hro => ?_, fun _ => ⟨reason, opcode, (hdue _ _).mpr ⟨rfl, rfl⟩, by simp⟩⟩
    obtain ⟨rfl, rfl⟩ := (hdue r o).mp hro
    simp
  · exact ⟨fun r o hro => absurd hro (hnone r o), fun hhalted => absurd hhalted hphase⟩

/-- Settles O49: of the two ways a step goes (`step_raises_or_completes`) only the raise halts the core or answers a
fault, and a raise with the state's own `PC` writes only the fault's marks. -/
theorem faultingTransactionCommitsNothing : Obligations.FaultingTransactionCommitsNothing := by
  unfold Obligations.FaultingTransactionCommitsNothing
  intro s t hstep hfault
  obtain ⟨reason, opcode, p, -, rfl⟩ | ⟨-, hphase, hresponse⟩ := step_raises_or_completes hstep
  · refine ⟨by simp, ⟨_, State.raise_fault .., by simp, by simp⟩, s.raise_setPort_onlyChanges _ _ _, ?_⟩
    exact step_of_halted (by simp)
  · exact absurd hfault (by simp [hphase, hresponse])

end Sys2Proof.Machine
end

section
/-! LOAD (70_reset_and_hazards.md R264, R265): the phase it moves in, the program it places, and the fault of a program
that is too long. -/

namespace Sys2Proof.Machine

/-- A phase with a move for a LOAD is Constructed (10_state.md R41). -/
theorem stuck_load_eq_none {p : Phase} {bytes : List Byte} :
    p.stuck (.load bytes) = none ↔ p = .constructed := by
  cases p <;> simp [Phase.stuck]

/-- The step of a LOAD in phase Constructed. -/
theorem step_of_load {s : State} {bytes : List Byte} (hphase : s.phase = .constructed)
    (hx : s.port.next = .load bytes) : step s = .next ((s.setPort s.port.taken).loadProgram bytes) :=
  step_of_move hx (stuck_load_eq_none.mpr hphase)

theorem State.loadProgram_of_le {s : State} {bytes : List Byte} (h : bytes.length ≤ Config.maxLoad) :
    s.loadProgram bytes =
      ((s.setMem (s.mem.writeBytes Config.loadAddr bytes)).setPhase .loaded).respond .ok :=
  if_neg h.not_gt

theorem State.loadProgram_of_lt {s : State} {bytes : List Byte} (h : Config.maxLoad < bytes.length) :
    s.loadProgram bytes = s.raise .loadTooLarge s.pc none :=
  if_pos h

/-- Settles O16: a program that fits is one `writeBytes` from 0x200 on, which ends inside memory; a longer one is a
raise with the state's own `PC`. -/
theorem loadPlacesTheProgram : Obligations.LoadPlacesTheProgram := by
  unfold Obligations.LoadPlacesTheProgram
  refine fun s bytes hx => ⟨fun hphase t ht => ?_, fun hphase hfits => ?_, fun hphase hlong => ?_⟩
  · obtain ⟨hmove, -⟩ := step_eq_next ht
    rw [hx] at hmove
    exact hphase (stuck_load_eq_none.mp hmove)
  · refine ⟨_, step_of_load hphase hx, ?_⟩
    rw [State.loadProgram_of_le hfits]
    refine ⟨fun k hk => ?_, fun a ha => ?_, rfl, rfl, fun p hp => ?_⟩
    · rw [List.getElem?_eq_getElem hk]
      exact congrArg some (Memory.read_writeBytes_inside bytes s.mem 0x200 k hk (by omega))
    · exact Memory.read_writeBytes_outside bytes s.mem 0x200 a ha
    · cases p with
      | memory | phase | port => simp at hp
      | _ => simp [Part.Same]
  · refine ⟨_, step_of_load hphase hx, ?_⟩
    rw [State.loadProgram_of_lt hlong]
    exact ⟨rfl, rfl, rfl, s.raise_setPort_onlyChanges _ _ _⟩

end Sys2Proof.Machine
end

section
/-! Encoding (30_encoding.md R72 to R79): the decoder and the encoder are inverse to each other (O2, O3), the operands
are fields of the word (O5), and the legal words are those of the opcode table (O4) and of the opcode map (O6); ten
words written out (O1). -/

namespace Sys2Proof.Machine

/-! ### Decoder and encoder -/

/-- The word of an instruction decodes to it, since the instruction is spelled by its row. -/
theorem decodeWord_encode (i : Instr) : decodeWord (encode i) = some i := by
  obtain ⟨_, _, -, -, hdecode⟩ := exists_spelledBy i
  exact hdecode

/-- A word is its two bytes, the high one first (20_memory.md R54). -/
theorem bigEndian_extractLsb' (w : Word) : bigEndian (w.extractLsb' 8 8) (w.extractLsb' 0 8) = w := by
  apply BitVec.eq_of_toNat_eq
  rw [bigEndian_toNat, BitVec.extractLsb'_toNat, BitVec.extractLsb'_toNat, Nat.shiftRight_zero,
    Nat.shiftRight_eq_div_pow]
  omega

/-- Settles O2: the decoder reads the instruction back from its word, and its two bytes put together are that word. -/
theorem decodeOfEncodeIsTheInstruction : Obligations.DecodeOfEncodeIsTheInstruction := by
  unfold Obligations.DecodeOfEncodeIsTheInstruction
  refine fun i => ⟨decodeWord_encode i, ?_⟩
  simp only [decode, encodeBytes, bigEndian_extractLsb', decodeWord_encode]

/-- Settles O3: every branch of the decoder builds an instruction of whose format the word is
(`encode_of_decodeWord`). -/
theorem encodeOfDecodeIsTheWord : Obligations.EncodeOfDecodeIsTheWord := by
  unfold Obligations.EncodeOfDecodeIsTheWord
  exact fun _ _ h => encode_of_decodeWord h

/-! ### The opcode table -/

theorem OpcodeRow.admits_iff {row : OpcodeRow} {w : Word} : row.admits w = true ↔ w &&& row.mask = row.pattern := by
  simp [OpcodeRow.admits]

/-- Rows whose patterns differ on a bit that both masks keep admit no word together. -/
theorem not_admits_both {r q : OpcodeRow} (h : r.pattern &&& q.mask ≠ q.pattern &&& r.mask) (w : Word) :
    ¬ (r.admits w = true ∧ q.admits w = true) := by
  rw [OpcodeRow.admits_iff, OpcodeRow.admits_iff]
  rintro ⟨hr, hq⟩
  rw [← hr, ← hq, BitVec.and_assoc, BitVec.and_assoc, BitVec.and_comm r.mask] at h
  exact h rfl

/-- Settles O4: `decodeWord_eq_none_iff` says which words no row admits; any two rows differ on a bit that both fix. -/
theorem decodeAcceptsExactlyTheDisjointRows : Obligations.DecodeAcceptsExactlyTheDisjointRows := by
  unfold Obligations.DecodeAcceptsExactlyTheDisjointRows
  constructor
  · intro w
    rw [Bool.eq_iff_iff, List.any_eq_true, Option.isSome_iff_ne_none, Ne, decodeWord_eq_none_iff]
    simp [OpcodeRow.admits_iff]
  · have hdiffer : opcodeRows.Pairwise fun r q => r.pattern &&& q.mask ≠ q.pattern &&& r.mask := by decide
    exact hdiffer.imp not_admits_both

/-! ### Operand fields -/

theorem formatNNN_field (d : Nibble) (nnn : Addr) : nnn.toNat = (formatNNN d nnn).toNat % 4096 := by
  rw [formatNNN_toNat]
  omega

theorem formatXNN_fields (d : Nibble) (x : Reg) (nn : Byte) :
    x.toNat = (formatXNN d x nn).toNat / 256 % 16 ∧ nn.toNat = (formatXNN d x nn).toNat % 256 := by
  rw [formatXNN_toNat]
  omega

theorem formatXYN_fields (d : Nibble) (x y : Reg) (n : Nibble) :
    x.toNat = (formatXYN d x y n).toNat / 256 % 16 ∧ y.toNat = (formatXYN d x y n).toNat / 16 % 16 ∧
    n.toNat = (formatXYN d x y n).toNat % 16 := by
  rw [formatXYN_toNat]
  omega

/-- The operands of an instruction are the fields of its own word, by the format it is written in. -/
theorem operandsOf_encode (i : Instr) : OperandsOf (encode i) i := by
  cases i with
  | nop | cls | ret => trivial
  | jp nnn | call nnn | ldI nnn | jpV0 nnn => exact formatNNN_field _ nnn
  | seImm x nn | sneImm x nn | ldImm x nn | addImm x nn | rnd x nn => exact formatXNN_fields _ x nn
  | drw x y n => exact formatXYN_fields _ x y n
  | seReg x y | ldReg x y | orReg x y | andReg x y | xorReg x y | addReg x y | subReg x y | shr x y | subnReg x y
  | shl x y | sneReg x y =>
    obtain ⟨hx, hy, -⟩ := formatXYN_fields _ x y _
    exact ⟨hx, hy⟩
  | skp x | sknp x | ldVxDt x | ldVxK x | ldDtVx x | ldStVx x | addI x | ldF x | ldB x | ldMemVx x | ldVxMem x =>
    exact (formatXNN_fields _ x _).1

/-- Settles O5: the word is the one the instruction encodes to, whose fields are its operands. -/
theorem operandsAreTheFieldsOfTheWord : Obligations.OperandsAreTheFieldsOfTheWord := by
  unfold Obligations.OperandsAreTheFieldsOfTheWord
  intro w i h
  rw [← encode_of_decodeWord h]
  exact operandsOf_encode i

/-! ### The opcode map -/

theorem fieldD1_toNat (w : Word) : (fieldD1 w).toNat = w.toNat / 0x1000 := by
  simp [fieldD1, Nat.shiftRight_eq_div_pow]
  omega

theorem fieldN_toNat (w : Word) : (fieldN w).toNat = w.toNat % 16 := by
  simp [fieldN]

theorem fieldNN_toNat (w : Word) : (fieldNN w).toNat = w.toNat % 256 := by
  simp [fieldNN]

theorem decodeFamily0_isSome (w : Word) : (decodeFamily0 w).isSome = wellFormed0 w.toNat := by
  unfold decodeFamily0
  split <;> simp_all [wellFormed0, ← BitVec.toNat_inj]

theorem decodeWhenN0_isSome (w : Word) (i : Instr) : (decodeWhenN0 w i).isSome = wellFormed59 w.toNat := by
  unfold decodeWhenN0
  split <;> simp_all [wellFormed59, ← BitVec.toNat_inj, fieldN_toNat]

theorem decodeFamily8_isSome (w : Word) : (decodeFamily8 w).isSome = wellFormed8 w.toNat := by
  unfold decodeFamily8
  split <;> simp_all [wellFormed8, ← BitVec.toNat_inj, fieldN_toNat]
  omega

theorem decodeFamilyE_isSome (w : Word) : (decodeFamilyE w).isSome = wellFormedE w.toNat := by
  unfold decodeFamilyE
  split <;> simp_all [wellFormedE, ← BitVec.toNat_inj, fieldNN_toNat]

theorem decodeFamilyF_isSome (w : Word) : (decodeFamilyF w).isSome = wellFormedF w.toNat := by
  unfold decodeFamilyF
  split <;> simp_all [wellFormedF, ← BitVec.toNat_inj, fieldNN_toNat]

/-- The decoder accepts the words of the opcode map (30_encoding.md R77), family by family. -/
theorem decodeWord_isSome_eq_wellFormedWord (w : Word) : (decodeWord w).isSome = wellFormedWord w := by
  unfold decodeWord wellFormedWord
  rw [← fieldD1_toNat]
  split
  case h_1 hd => simpa [hd] using decodeFamily0_isSome w
  case h_6 hd | h_10 hd => simpa [hd] using decodeWhenN0_isSome w _
  case h_9 hd => simpa [hd] using decodeFamily8_isSome w
  case h_15 hd => simpa [hd] using decodeFamilyE_isSome w
  case h_16 hd => simpa [hd] using decodeFamilyF_isSome w
  case h_17 =>
    have hlt := (fieldD1 w).isLt
    simp_all [← BitVec.toNat_inj]
    omega
  case h_2 hd | h_3 hd | h_4 hd | h_5 hd | h_7 hd | h_8 hd | h_11 hd | h_12 hd | h_13 hd | h_14 hd => simp [hd]

/-! ### Counting the illegal words of a family -/

/-- Counting a predicate of period `m` over `k` periods. -/
theorem count_mul_of_periodic {p : Nat → Prop} [DecidablePred p] {m : Nat} (h : Function.Periodic p m) (k : Nat) :
    Nat.count p (m * k) = k * Nat.count p m := by
  induction k with
  | zero => simp
  | succ k ih =>
    have hshift : (fun n => p (m * k + n)) = p := by
      funext n
      rw [Nat.add_comm, Nat.mul_comm]
      exact h.nat_mul k n
    simp only [Nat.mul_succ, Nat.count_add, hshift, ih, Nat.succ_mul]

/-- Is word number `n` of family `d` legal, by the opcode map (30_encoding.md R77)? -/
def familyLegal (d n : Nat) : Bool :=
  match d with
  | 0x0 => wellFormed0 n
  | 0x5 | 0x9 => wellFormed59 n
  | 0x8 => wellFormed8 n
  | 0xE => wellFormedE n
  | 0xF => wellFormedF n
  | _ => true

theorem wellFormedWord_eq_familyLegal (d : Fin 16) {n : Nat} (hn : n < 4096) :
    wellFormedWord (BitVec.ofNat 16 (4096 * d.val + n)) = familyLegal d.val n := by
  have hword : (BitVec.ofNat 16 (4096 * d.val + n)).toNat = 4096 * d.val + n := by
    rw [BitVec.toNat_ofNat]
    omega
  have hfamily : (4096 * d.val + n) / 0x1000 = d.val := by omega
  have hnibble : (4096 * d.val + n) % 16 = n % 16 := by omega
  have hbyte : (4096 * d.val + n) % 256 = n % 256 := by omega
  unfold wellFormedWord familyLegal
  rw [hword, hfamily]
  split <;> simp_all [wellFormed59, wellFormed8, wellFormedE, wellFormedF]

/-- Counting the illegal words below a bound by listing the legal ones. -/
theorem count_illegal_eq_sub {d N : Nat} (legal : Finset Nat)
    (h : ∀ n, n ∈ legal ↔ n < N ∧ familyLegal d n = true) :
    Nat.count (fun n => familyLegal d n = false) N = N - legal.card := by
  have hlegal : {n ∈ Finset.range N | familyLegal d n = true} = legal := by
    ext n
    rw [Finset.mem_filter, Finset.mem_range, h]
  have hsum := Finset.card_filter_add_card_filter_not (s := Finset.range N) (fun n => familyLegal d n = true)
  simp only [hlegal, Bool.not_eq_true, Finset.card_range] at hsum
  rw [Nat.count_eq_card_filter_range]
  omega

/-- Counting the illegal words of a family whose legality has a period, by listing the legal words of one period. -/
theorem count_illegal_of_period {d m k N : Nat} (hN : N = m * k) (legal : Finset Nat)
    (hperiod : ∀ n, familyLegal d (n + m) = familyLegal d n)
    (h : ∀ n, n ∈ legal ↔ n < m ∧ familyLegal d n = true) :
    Nat.count (fun n => familyLegal d n = false) N = k * (m - legal.card) := by
  rw [hN, count_mul_of_periodic (fun n => by rw [hperiod]), count_illegal_eq_sub legal h]

/-- Family 0 has three legal words. -/
theorem count_illegal_family0 : Nat.count (fun n => familyLegal 0x0 n = false) 4096 = 4093 :=
  count_illegal_eq_sub {0x000, 0x0E0, 0x0EE} fun n => by simp [familyLegal, wellFormed0]; omega

/-- Families 5 and 9 take one last nibble of 16. -/
theorem count_illegal_family59 {d : Nat} (h : ∀ n, familyLegal d n = wellFormed59 n) :
    Nat.count (fun n => familyLegal d n = false) 4096 = 3840 :=
  count_illegal_of_period (m := 16) (k := 256) rfl {0x0} (fun n => by simp [h, wellFormed59])
    fun n => by simp [h, wellFormed59]; omega

/-- Family 8 takes nine last nibbles of 16. -/
theorem count_illegal_family8 : Nat.count (fun n => familyLegal 0x8 n = false) 4096 = 1792 :=
  count_illegal_of_period (m := 16) (k := 256) rfl {0x0, 0x1, 0x2, 0x3, 0x4, 0x5, 0x6, 0x7, 0xE}
    (fun n => by simp [familyLegal, wellFormed8]) fun n => by simp [familyLegal, wellFormed8]; omega

/-- Family E takes two last bytes of 256. -/
theorem count_illegal_familyE : Nat.count (fun n => familyLegal 0xE n = false) 4096 = 4064 :=
  count_illegal_of_period (m := 256) (k := 16) rfl {0x9E, 0xA1} (fun n => by simp [familyLegal, wellFormedE])
    fun n => by simp [familyLegal, wellFormedE]; omega

/-- Family F takes nine last bytes of 256. -/
theorem count_illegal_familyF : Nat.count (fun n => familyLegal 0xF n = false) 4096 = 3952 :=
  count_illegal_of_period (m := 256) (k := 16) rfl {0x07, 0x0A, 0x15, 0x18, 0x1E, 0x29, 0x33, 0x55, 0x65}
    (fun n => by simp [familyLegal, wellFormedF]) fun n => by simp [familyLegal, wellFormedF]; omega

theorem count_illegal_of_all_legal {d : Nat} (h : ∀ n, familyLegal d n = true) (N : Nat) :
    Nat.count (fun n => familyLegal d n = false) N = 0 :=
  Nat.count_of_forall_not fun n _ => by simp [h]

/-- The illegal words of every family, counted. -/
theorem count_illegal (d : Fin 16) :
    Nat.count (fun n => familyLegal d.val n = false) 4096 =
      ([4093, 0, 0, 0, 0, 3840, 0, 0, 1792, 3840, 0, 0, 0, 0, 4064, 3952] : List Nat)[d.val] := by
  match d with
  | ⟨0x0, _⟩ => exact count_illegal_family0
  | ⟨0x5, _⟩ | ⟨0x9, _⟩ => exact count_illegal_family59 fun _ => rfl
  | ⟨0x8, _⟩ => exact count_illegal_family8
  | ⟨0xE, _⟩ => exact count_illegal_familyE
  | ⟨0xF, _⟩ => exact count_illegal_familyF
  | ⟨0x1, _⟩ | ⟨0x2, _⟩ | ⟨0x3, _⟩ | ⟨0x4, _⟩ | ⟨0x6, _⟩ | ⟨0x7, _⟩ | ⟨0xA, _⟩ | ⟨0xB, _⟩ | ⟨0xC, _⟩ | ⟨0xD, _⟩ =>
    exact count_illegal_of_all_legal (fun _ => rfl) 4096
  | ⟨n + 16, h⟩ => omega

/-- The numbers of a range that satisfy a test, listed and then counted. -/
theorem length_filter_range (p : Nat → Bool) (N : Nat) :
    ((List.range N).filter p).length = Nat.count (fun n => p n = true) N := by
  simp [Nat.count, List.countP_eq_length_filter]

/-- Settles O6: the decoder accepts the map's words (`decodeWord_isSome_eq_wellFormedWord`), and the map tells those of
a family by the whole word, the last nibble or the last byte, which counts the others (`count_illegal`). -/
theorem decodeAcceptsExactlyTheOpcodeMap : Obligations.DecodeAcceptsExactlyTheOpcodeMap := by
  unfold Obligations.DecodeAcceptsExactlyTheOpcodeMap
  refine ⟨decodeWord_isSome_eq_wellFormedWord, fun d => ?_⟩
  have hillegal : ∀ n ∈ List.range 4096,
      (decodeWord (BitVec.ofNat 16 (4096 * d.val + n))).isNone = !familyLegal d.val n := by
    intro n hn
    rw [← wellFormedWord_eq_familyLegal d (List.mem_range.mp hn), ← decodeWord_isSome_eq_wellFormedWord,
      Option.not_isSome]
  rw [List.filter_congr hillegal, length_filter_range]
  simpa only [Bool.not_eq_true'] using count_illegal d

/-- Settles O1: each word is decoded by evaluation. -/
theorem specWordsDecode : Obligations.SpecWordsDecode := by
  unfold Obligations.SpecWordsDecode
  decide

end Sys2Proof.Machine
end

section
/-! Which instruction writes which part of the state: memory (O51), the keys and the stack (O52), `I` and the timers
(O53), VF (O54) and `PC` (O55); and the same of the keys and timers over a whole step (O56). -/

namespace Sys2Proof.Machine

/-! ### Memory -/

/-- An instruction leaves memory as it is, or is FX33 or FX55 and stores its bytes from `I` on (20_memory.md R51). -/
theorem exec_mem {i : Instr} {s t : State} (h : exec i s = .next t) :
    t.mem = s.mem ∨
    ∃ bytes, t.mem = s.mem.writeBytes (s.dataAddr 0) bytes ∧
      ((∃ x, i = .ldB x ∧ bytes.length = 3) ∨ ∃ x, i = .ldMemVx x ∧ bytes.length = x.toNat + 1) := by
  cases exec_effect h with
  | ldB _ x => exact .inr ⟨_, s.storeData_mem _, .inl ⟨x, rfl, length_bcdDigits _⟩⟩
  | ldMemVx _ x => exact .inr ⟨_, s.storeData_mem _, .inr ⟨x, rfl, s.length_regsUpTo x⟩⟩
  | _ => exact .inl (by simp [State.skipIf_cases])

/-- A byte that `writeBytes` changes lies among the bytes it writes. -/
theorem Memory.mem_range_of_read_writeBytes_ne {m : Memory} {base a : Nat} {bytes : List Byte}
    (h : (m.writeBytes base bytes).read a ≠ m.read a) : base ≤ a ∧ a < base + bytes.length := by
  by_contra hout
  exact h (Memory.read_writeBytes_outside bytes m base a (by omega))

/-- Settles O51: the bytes that FX33 and FX55 store are the only ones `exec_mem` leaves to change. -/
theorem onlyBcdAndRegisterStoreWriteMemory : Obligations.OnlyBcdAndRegisterStoreWriteMemory := by
  unfold Obligations.OnlyBcdAndRegisterStoreWriteMemory
  intro i s t a h hne
  obtain hkept | ⟨bytes, hstored, hwriter⟩ := exec_mem h
  · exact absurd (by rw [hkept]) hne
  · rw [hstored] at hne
    obtain ⟨hlow, hhigh⟩ := Memory.mem_range_of_read_writeBytes_ne hne
    rw [State.dataAddr] at hlow hhigh
    obtain ⟨x, hi, hlen⟩ | ⟨x, hi, hlen⟩ := hwriter
    · exact .inl ⟨x, hi, by omega, by omega⟩
    · exact .inr ⟨x, hi, by omega, by omega⟩

/-! ### Keys and stack -/

theorem exec_key {i : Instr} {s t : State} (h : exec i s = .next t) : t.key = s.key := by
  cases exec_effect h with
  | _ => simp [State.skipIf_cases]

/-- An instruction leaves the stack's entries as they are, or is a CALL and writes `PC` to the entry `SP` names. -/
theorem exec_stack {i : Instr} {s t : State} (h : exec i s = .next t) :
    t.stack = s.stack ∨ ∃ nnn, ∃ hlt : s.sp.val < 16, i = .call nnn ∧ t.stack = s.stack.set s.sp.val s.pc hlt := by
  cases exec_effect h with
  | call _ nnn hlt => exact .inr ⟨nnn, hlt, rfl, rfl⟩
  | _ => exact .inl (by simp [State.skipIf_cases])

/-- Settles O52: no effect writes a key, and the one that writes the stack is a CALL's single `Vector.set`. -/
theorem keysAndStackAreWrittenOnlyByTheirWriters : Obligations.KeysAndStackAreWrittenOnlyByTheirWriters := by
  unfold Obligations.KeysAndStackAreWrittenOnlyByTheirWriters
  intro i s t h
  refine ⟨exec_key h, fun k hne => ?_⟩
  obtain hkept | ⟨nnn, hlt, hi, hpushed⟩ := exec_stack h
  · exact absurd (by rw [hkept]) hne
  · refine ⟨⟨nnn, hi⟩, ?_⟩
    by_contra hk
    exact hne (by simp [hpushed, Ne.symm hk])

/-! ### Index register and timers -/

theorem exec_i {i : Instr} {s t : State} (h : exec i s = .next t) :
    t.i = s.i ∨ (∃ nnn, i = .ldI nnn) ∨ (∃ x, i = .addI x) ∨ ∃ x, i = .ldF x := by
  cases exec_effect h with
  | ldI _ nnn => exact .inr (.inl ⟨nnn, rfl⟩)
  | addI _ x => exact .inr (.inr (.inl ⟨x, rfl⟩))
  | ldF _ x => exact .inr (.inr (.inr ⟨x, rfl⟩))
  | _ => exact .inl (by simp [State.skipIf_cases])

theorem exec_dt {i : Instr} {s t : State} (h : exec i s = .next t) :
    t.dt = s.dt ∨ ∃ x, i = .ldDtVx x ∧ t.dt = s.readV x := by
  cases exec_effect h with
  | ldDtVx _ x => exact .inr ⟨x, rfl, rfl⟩
  | _ => exact .inl (by simp [State.skipIf_cases])

theorem exec_st {i : Instr} {s t : State} (h : exec i s = .next t) :
    t.st = s.st ∨ ∃ x, i = .ldStVx x ∧ t.st = s.readV x := by
  cases exec_effect h with
  | ldStVx _ x => exact .inr ⟨x, rfl, rfl⟩
  | _ => exact .inl (by simp [State.skipIf_cases])

/-- Settles O53: each clause is what the effects say of that one field. -/
theorem indexAndTimersAreWrittenOnlyByTheirWriters : Obligations.IndexAndTimersAreWrittenOnlyByTheirWriters := by
  unfold Obligations.IndexAndTimersAreWrittenOnlyByTheirWriters
  intro i s t h
  refine ⟨(exec_i h).resolve_left, fun hne => ?_, fun hne => ?_⟩
  · obtain ⟨x, hi, -⟩ := (exec_dt h).resolve_left hne
    exact ⟨x, hi⟩
  · obtain ⟨x, hi, -⟩ := (exec_st h).resolve_left hne
    exact ⟨x, hi⟩

/-! ### VF -/

/-- A register that a write of VX changes is VX. -/
theorem State.eq_of_readV_writeV_ne {s : State} {x y : Reg} {b : Byte} (h : (s.writeV x b).readV y ≠ s.readV y) :
    y = x := by
  by_contra hne
  exact h (by simp [hne])

/-- A load of the registers up to VX changes VF only if it is the load of all of them. -/
theorem State.eq_VF_of_readV_loadRegs_ne {s : State} {x : Reg} (h : (s.loadRegs x).readV VF ≠ s.readV VF) :
    x = VF := by
  rw [State.readV_loadRegs] at h
  by_contra hne
  have hlow : ¬ VF.toNat ≤ x.toNat := by bv_omega
  exact h (if_neg hlow)

/-- Settles O54: an effect that writes VF as a flag is one of the first two disjuncts; another write of one register
reaches VF only as its destination. -/
theorem vfIsWrittenOnlyAsFlagOrDestination : Obligations.VfIsWrittenOnlyAsFlagOrDestination := by
  unfold Obligations.VfIsWrittenOnlyAsFlagOrDestination
  intro i s t h hne
  cases exec_effect h with
  | addReg _ x y | subReg _ x y | shr _ x y | subnReg _ x y | shl _ x y => exact .inl ⟨x, y, by simp⟩
  | drw _ x y n | drwFault _ x y n => exact .inr (.inl ⟨x, y, n, rfl⟩)
  | ldImm _ x nn | addImm _ x nn | rnd _ x nn =>
    obtain rfl := State.eq_of_readV_writeV_ne hne
    exact .inr (.inr (.inl ⟨nn, by simp⟩))
  | ldReg _ x y | orReg _ x y | andReg _ x y | xorReg _ x y =>
    obtain rfl := State.eq_of_readV_writeV_ne hne
    exact .inr (.inr (.inr (.inl ⟨y, by simp⟩)))
  | ldVxDt | ldVxK =>
    obtain rfl := State.eq_of_readV_writeV_ne hne
    simp
  | ldVxMem =>
    obtain rfl := State.eq_VF_of_readV_loadRegs_ne hne
    simp
  | ret | call => exact absurd rfl hne
  | _ => simp [State.skipIf_cases] at hne

/-! ### PC -/

/-- Where `PC` can be after an instruction: it is kept, or moved by one instruction (a skip; a wait or a fault), or is
the target of one of the four transfers (42_flow.md). -/
theorem exec_pc {i : Instr} {s t : State} (h : exec i s = .next t) :
    (t.pc = s.pc ∨ t.pc = s.pc + 2 ∨ t.pc = s.pc - 2) ∨
    (∃ nnn, (i = .jp nnn ∨ i = .call nnn) ∧ t.pc = zext16 nnn) ∨
    (∃ nnn, i = .jpV0 nnn ∧ t.pc = BitVec.ofNat 16 ((s.readV 0).toNat + nnn.toNat)) ∨
    (i = .ret ∧ ∃ k : Fin 16, t.pc = s.stack[k]) := by
  cases exec_effect h with
  | jp _ nnn => exact .inr (.inl ⟨nnn, .inl rfl, rfl⟩)
  | call _ nnn => exact .inr (.inl ⟨nnn, .inr rfl, rfl⟩)
  | jpV0 _ nnn => exact .inr (.inr (.inl ⟨nnn, rfl, rfl⟩))
  | ret _ hk => exact .inr (.inr (.inr ⟨rfl, ⟨_, hk⟩, rfl⟩))
  | seImm | sneImm | seReg | sneReg | skp | sknp =>
    rw [State.skipIf_cases, State.setPc_pc]
    split <;> simp
  | _ => exact .inl (by simp)

theorem toNat_add_two_mod_two (w : Word) : (w + 2).toNat % 2 = w.toNat % 2 := by bv_omega

theorem toNat_sub_two_mod_two (w : Word) : (w - 2).toNat % 2 = w.toNat % 2 := by bv_omega

/-- Settles O55: of the places `exec_pc` allows, only the targets of the transfers can have another parity. -/
theorem onlyTransfersChangeTheParityOfPc : Obligations.OnlyTransfersChangeTheParityOfPc := by
  unfold Obligations.OnlyTransfersChangeTheParityOfPc
  intro i s t h hne
  obtain (e | e | e) | ⟨nnn, hi, -⟩ | ⟨nnn, hi, -⟩ | ⟨hi, -⟩ := exec_pc h
  · exact absurd (by rw [e]) hne
  · exact absurd (by rw [e, toNat_add_two_mod_two]) hne
  · exact absurd (by rw [e, toNat_sub_two_mod_two]) hne
  · exact hi.elim (fun hjp => .inl ⟨nnn, hjp⟩) fun hcall => .inr (.inl ⟨nnn, hcall⟩)
  · exact .inr (.inr (.inl ⟨nnn, hi⟩))
  · exact .inr (.inr (.inr hi))

/-! ### Keys and timers over a step -/

/-- A CYCLE that changes a part of the state no fault writes runs the instruction it fetched. -/
theorem State.cycle_runs_of_ne {α : Type} {s t : State} {r : Option Byte} (part : State → α)
    (hraise : ∀ reason pc opcode, part (s.raise reason pc opcode) = part s) (h : s.cycle r = .next t)
    (hne : part t ≠ part s) :
    ∃ w i, s.fetch16 s.pc = some w ∧ decodeWord w = some i ∧ exec i (s.beginCycle r) = .next t := by
  obtain ⟨-, e⟩ | ⟨_, -, -, e⟩ | ⟨w, i, hfetch, hdecode, e⟩ := s.cycle_cases r
  · cases e.symm.trans h
    exact absurd (hraise ..) hne
  · cases e.symm.trans h
    exact absurd (hraise ..) hne
  · exact ⟨w, i, hfetch, hdecode, e.symm.trans h⟩

theorem State.cycle_key {s t : State} {r : Option Byte} (h : s.cycle r = .next t) : t.key = s.key := by
  by_contra hne
  obtain ⟨w, i, -, -, hexec⟩ := State.cycle_runs_of_ne State.key (fun _ _ _ => rfl) h hne
  have hkept := exec_key hexec
  exact hne hkept

theorem State.cycle_dt {s t : State} {r : Option Byte} (h : s.cycle r = .next t) (hne : t.dt ≠ s.dt) :
    ∃ w x, s.fetch16 s.pc = some w ∧ decodeWord w = some (.ldDtVx x) ∧ t.dt = s.readV x := by
  obtain ⟨w, i, hfetch, hdecode, hexec⟩ := State.cycle_runs_of_ne State.dt (fun _ _ _ => rfl) h hne
  obtain ⟨x, rfl, hdt⟩ := (exec_dt hexec).resolve_left hne
  exact ⟨w, x, hfetch, hdecode, hdt⟩

theorem State.cycle_st {s t : State} {r : Option Byte} (h : s.cycle r = .next t) (hne : t.st ≠ s.st) :
    ∃ w x, s.fetch16 s.pc = some w ∧ decodeWord w = some (.ldStVx x) ∧ t.st = s.readV x := by
  obtain ⟨w, i, hfetch, hdecode, hexec⟩ := State.cycle_runs_of_ne State.st (fun _ _ _ => rfl) h hne
  obtain ⟨x, rfl, hst⟩ := (exec_st hexec).resolve_left hne
  exact ⟨w, x, hfetch, hdecode, hst⟩

/-- What LOAD does: the fault of a program that is too long, or the write of its bytes (70_reset_and_hazards.md R264,
R265). -/
theorem State.loadProgram_cases (bytes : List Byte) (s : State) :
    s.loadProgram bytes = s.raise .loadTooLarge s.pc none ∨
    s.loadProgram bytes = ((s.setMem (s.mem.writeBytes Config.loadAddr bytes)).setPhase .loaded).respond .ok :=
  (lt_or_ge Config.maxLoad bytes.length).imp State.loadProgram_of_lt State.loadProgram_of_le

/-- A part of the state that neither a fault nor the write of a program changes is kept by LOAD. -/
theorem State.loadProgram_keeps {α : Type} (part : State → α) (bytes : List Byte) (s : State)
    (hraise : part (s.raise .loadTooLarge s.pc none) = part s)
    (hload : part (((s.setMem (s.mem.writeBytes Config.loadAddr bytes)).setPhase .loaded).respond .ok) = part s) :
    part (s.loadProgram bytes) = part s := by
  obtain e | e := s.loadProgram_cases bytes
  · rw [e, hraise]
  · rw [e, hload]

/-- A count that moves a timer takes 1 from it. -/
theorem countDown_toNat_of_ne {b : Byte} (h : countDown b ≠ b) : (countDown b).toNat + 1 = b.toNat := by
  have hcount := countDown_toNat b
  have hne : (countDown b).toNat ≠ b.toNat := mt BitVec.eq_of_toNat_eq h
  omega

theorem State.transact_key {s t : State} {x : Transaction} (h : s.transact x = .next t) (hne : t.key ≠ s.key) :
    x = .reset ∨ ∃ k b, x = .setKey k b := by
  cases x with
  | reset => exact .inl rfl
  | setKey k b => exact .inr ⟨k, b, rfl⟩
  | cycle r => exact absurd (State.cycle_key h) hne
  | load bytes =>
    cases h
    exact absurd (State.loadProgram_keeps State.key bytes s rfl rfl) hne
  | tick | getDisplay =>
    cases h
    simp [State.tick_eq, State.getDisplay] at hne

/-- A transaction that changes one of the two timers is a TICK that takes 1 from it, RESET or a CYCLE. -/
theorem State.transact_timer {s t : State} {x : Transaction} (timer : State → Byte)
    (htimer : timer = State.dt ∨ timer = State.st) (h : s.transact x = .next t) (hne : timer t ≠ timer s) :
    (x = .tick ∧ (timer t).toNat + 1 = (timer s).toNat) ∨ x = .reset ∨ ∃ r, x = .cycle r ∧ s.cycle r = .next t := by
  cases x with
  | reset => exact .inr (.inl rfl)
  | cycle r => exact .inr (.inr ⟨r, rfl, h⟩)
  | tick =>
    cases h
    have hcount : timer s.tick = countDown (timer s) := by
      rw [State.tick_eq]
      obtain rfl | rfl := htimer <;> rfl
    rw [hcount] at hne ⊢
    exact .inl ⟨rfl, countDown_toNat_of_ne hne⟩
  | load bytes =>
    cases h
    refine absurd (State.loadProgram_keeps timer bytes s ?_ ?_) hne <;> obtain rfl | rfl := htimer <;> rfl
  | getDisplay | setKey =>
    cases h
    obtain rfl | rfl := htimer <;> exact absurd rfl hne

/-- Settles O56: the step performs the transaction in a state with the same keys, timers, registers, memory and `PC`,
so each clause is what the transactions do to that field. -/
theorem keysAndTimersAcrossAStep : Obligations.KeysAndTimersAcrossAStep := by
  unfold Obligations.KeysAndTimersAcrossAStep
  intro s t hstep
  obtain ⟨-, ht⟩ := step_eq_next hstep
  refine ⟨State.transact_key (s := s.setPort s.port.taken) ht, fun hne => ?_, fun hne => ?_⟩
  · obtain htick | hreset | ⟨r, hx, hcycle⟩ :=
      State.transact_timer (s := s.setPort s.port.taken) State.dt (.inl rfl) ht hne
    · exact .inl htick
    · exact .inr (.inl hreset)
    · obtain ⟨w, y, hfetch, hrun⟩ := State.cycle_dt hcycle hne
      exact .inr (.inr ⟨w, y, ⟨⟨r, hx⟩, hfetch⟩, hrun⟩)
  · obtain htick | hreset | ⟨r, hx, hcycle⟩ :=
      State.transact_timer (s := s.setPort s.port.taken) State.st (.inr rfl) ht hne
    · exact .inl htick
    · exact .inr (.inl hreset)
    · obtain ⟨w, y, hfetch, hrun⟩ := State.cycle_st hcycle hne
      exact .inr (.inr ⟨w, y, ⟨⟨r, hx⟩, hfetch⟩, hrun⟩)

end Sys2Proof.Machine
end

section
/-! The host's schedule and the cycle: which transaction a step takes (O7), where none has a move (O12), what a CYCLE
runs (O8) and the fault of an illegal word (O10). -/

namespace Sys2Proof.Machine

/-! ### The schedule -/

theorem HostPort.next_taken_of_free {p : HostPort} (h : p.inputs = []) (hfree : p.beyond = .free) :
    p.next = Config.hostTransaction p.asked ∧ p.taken = { p with asked := p.asked + 1 } := by
  simp [HostPort.next, HostPort.taken, h, hfree]

theorem HostPort.next_taken_of_cycles {p : HostPort} (h : p.inputs = []) (hcycles : p.beyond = .cycles) :
    p.next = .cycle none ∧ p.taken = p := by
  simp [HostPort.next, HostPort.taken, h, hcycles]

/-- Settles O7: one lemma for each of the three hosts. -/
theorem theHostsScheduleIsTakenInOrder : Obligations.TheHostsScheduleIsTakenInOrder := by
  unfold Obligations.TheHostsScheduleIsTakenInOrder
  exact fun p => ⟨fun x rest h => ⟨HostPort.next_of_cons h, HostPort.taken_of_cons h⟩,
    HostPort.next_taken_of_free, HostPort.next_taken_of_cycles⟩

/-- Settles O12: each clause is a cell of `Phase.stuck`, whose name the step stops under. -/
theorem noMoveStopsByName : Obligations.NoMoveStopsByName := by
  unfold Obligations.NoMoveStopsByName
  refine fun s => ⟨fun hphase => ?_, fun hphase ⟨r, hr⟩ => ?_, fun bytes hphase hx => ?_⟩
  · exact step_of_stuck rfl (hphase ▸ stuck_halted _)
  · exact step_of_stuck hr (hphase ▸ rfl)
  · obtain hphase | hphase := hphase
    · exact step_of_stuck hx (hphase ▸ rfl)
    · exact step_of_stuck hx (hphase ▸ rfl)

/-- Settles O47: `exec_has_next`. -/
theorem everyInstructionAnswersANextState : Obligations.EveryInstructionAnswersANextState := by
  unfold Obligations.EveryInstructionAnswersANextState
  exact exec_has_next

/-! ### The cycle -/

theorem State.cycle_of_decodeWord_eq_some {s : State} {w : Word} {i : Instr} (r : Option Byte)
    (hfetch : s.fetch16 s.pc = some w) (hdecode : decodeWord w = some i) : s.cycle r = exec i (s.beginCycle r) := by
  simp only [State.cycle, hfetch, hdecode]

theorem State.cycle_of_decodeWord_eq_none {s : State} {w : Word} (r : Option Byte)
    (hfetch : s.fetch16 s.pc = some w) (hdecode : decodeWord w = none) :
    s.cycle r = .next (s.raise .unimplementedOpcode s.pc (some w)) := by
  simp only [State.cycle, hfetch, hdecode]

/-- Settles O8: the two bytes at `PC` are the fetched word, and a CYCLE executes the instruction it decodes to. -/
theorem stepRunsTheFetchedInstruction : Obligations.StepRunsTheFetchedInstruction := by
  unfold Obligations.StepRunsTheFetchedInstruction
  intro s i r hphase hx hin hdecode
  rw [step_of_move hx (stuck_cycle_eq_none.mpr hphase)]
  exact State.cycle_of_decodeWord_eq_some r (State.fetch16_eq_some.mpr ⟨hin, rfl⟩) hdecode

/-- Settles O10: a word no row admits has no instruction (`decodeWord_eq_none_iff`), so the step is a raise that keeps
`PC`. -/
theorem illegalWordFaults : Obligations.IllegalWordFaults := by
  unfold Obligations.IllegalWordFaults
  rintro s w hphase ⟨r, hr⟩ hin rfl hrows
  have hcycle := State.cycle_of_decodeWord_eq_none (s := s.setPort s.port.taken) r
    (State.fetch16_eq_some.mpr ⟨hin, rfl⟩) (decodeWord_eq_none_iff.mpr hrows)
  exact ⟨_, (step_of_move hr (stuck_cycle_eq_none.mpr hphase)).trans hcycle, rfl, rfl, rfl,
    s.raise_setPort_onlyChanges _ _ _⟩

end Sys2Proof.Machine
end

section
/-! Reset (70_reset_and_hazards.md R260): the state RESET leaves (O13) and a core starts in (O14), and the FONT
parameter, which no step writes (O15). -/

namespace Sys2Proof.Machine

/-- The state after RESET has every value of R260, for any FONT: memory is the font's bytes and zeros, the rest is
zero. -/
theorem State.resetWith_atReset (f : Config.Font) (p : HostPort) : (State.resetWith f p).AtReset f := by
  refine ⟨fun x => ?_, rfl, rfl, fun k => ?_, rfl, rfl, rfl, fun k => ?_, fun idx => pixel_clear _ _, fun k => ?_,
    fun a ha _ => Memory.read_ofFont_above f a ha, rfl, rfl, rfl⟩
  · simp [State.readV, State.resetWith, State.reset]
  · simp [State.resetWith, State.reset]
  · simp [State.resetWith, State.reset]
  · rw [Nat.zero_add]
    exact Memory.read_ofFont f k

/-- Settles O13: RESET is `State.resetWith` with the core's own FONT. -/
theorem resetEstablishesTheResetState : Obligations.ResetEstablishesTheResetState := by
  unfold Obligations.ResetEstablishesTheResetState
  exact fun s hphase hx =>
    ⟨_, step_of_ne_halted hphase hx nofun nofun, State.resetWith_atReset s.font _, rfl⟩

/-- Settles O14: the start state is `State.resetWith`, and with the default FONT it is `State.reset`. -/
theorem machineStartsInTheResetState : Obligations.MachineStartsInTheResetState := by
  unfold Obligations.MachineStartsInTheResetState
  exact ⟨fun f p => ⟨State.resetWith_atReset f p, rfl⟩, State.resetWith_default.symm⟩

theorem exec_font {i : Instr} {s t : State} (h : exec i s = .next t) : t.font = s.font := by
  cases exec_effect h with
  | _ => simp [State.skipIf_cases]

theorem State.transact_font {s t : State} {x : Transaction} (h : s.transact x = .next t) : t.font = s.font := by
  cases x with
  | cycle r =>
    by_contra hne
    obtain ⟨w, i, -, -, hexec⟩ := State.cycle_runs_of_ne State.font (fun _ _ _ => rfl) h hne
    have hkept := exec_font hexec
    exact hne hkept
  | load bytes =>
    cases h
    exact State.loadProgram_keeps State.font bytes s rfl rfl
  | tick =>
    cases h
    simp [State.tick_eq]
  | reset | getDisplay | setKey =>
    cases h
    rfl

/-- Settles O15: no transaction writes FONT, and taking one from the host's port does not either. -/
theorem fontIsFixed : Obligations.FontIsFixed := by
  unfold Obligations.FontIsFixed
  intro s t hstep
  obtain ⟨-, ht⟩ := step_eq_next hstep
  exact State.transact_font (s := s.setPort s.port.taken) ht

end Sys2Proof.Machine
end

section
/-! The two invariants: canonical memory with a coherent fault record (O57), and `PC` and the return addresses within
the bounds of 10_state.md R26 (O58); both hold at reset (O59). -/

namespace Sys2Proof.Machine

/-! ### Canonical memory -/

theorem exec_keeps_wf {i : Instr} {s t : State} (hwf : s.mem.wf = true) (h : exec i s = .next t) :
    t.mem.wf = true := by
  obtain hkept | ⟨bytes, hstored, -⟩ := exec_mem h
  · rwa [hkept]
  · rw [hstored]
    exact Memory.wf_writeBytes hwf _ _

/-- Memory is written by RESET, LOAD and an instruction's store alone, and each leaves it canonical. -/
theorem State.transact_keeps_wf {s t : State} {x : Transaction} (hwf : s.mem.wf = true)
    (h : s.transact x = .next t) : t.mem.wf = true := by
  cases x with
  | reset =>
    cases h
    exact Memory.wf_ofFont s.font
  | load bytes =>
    cases h
    obtain e | e := s.loadProgram_cases bytes
    · rwa [e]
    · rw [e]
      exact Memory.wf_writeBytes hwf _ _
  | cycle r =>
    by_cases hkept : t.mem = s.mem
    · rwa [hkept]
    · obtain ⟨w, i, -, -, hexec⟩ := State.cycle_runs_of_ne State.mem (fun _ _ _ => rfl) h hkept
      exact exec_keeps_wf (s := s.beginCycle r) hwf hexec
  | tick =>
    cases h
    rwa [State.tick_eq]
  | getDisplay | setKey =>
    cases h
    exact hwf

/-! ### The fault record -/

theorem State.Unfaulted.faultCoherent {s : State} (h : s.Unfaulted) : s.FaultCoherent := by
  obtain ⟨hfault, hphase⟩ := h
  simp [State.FaultCoherent, hfault, hphase]

theorem State.raise_faultCoherent (s : State) (reason : FaultReason) (pc : Word) (opcode : Option Word) :
    (s.raise reason pc opcode).FaultCoherent := by
  simp [State.FaultCoherent]

theorem State.FaultCoherent.fault_eq_none {s : State} (h : s.FaultCoherent) (hphase : s.phase ≠ .halted) :
    s.fault = none := by
  simpa [State.FaultCoherent, hphase] using h

/-- An instruction writes the fault record only by raising a fault. -/
theorem exec_keeps_fault_or_halts {i : Instr} {s t : State} (h : exec i s = .next t) :
    t.fault = s.fault ∨ t.phase = .halted := by
  cases exec_effect h with
  | retFault | callFault | drwFault | skpFault | sknpFault | ldBFault | ldMemVxFault | ldVxMemFault =>
    exact .inr (by simp)
  | _ => exact .inl (by simp [State.skipIf_cases])

/-- From a state with no fault on record, a transaction that does not halt the core leaves none. -/
theorem State.transact_fault_eq_none {s t : State} {x : Transaction} (hnone : s.fault = none)
    (h : s.transact x = .next t) (hphase : t.phase ≠ .halted) : t.fault = none := by
  cases x with
  | reset =>
    cases h
    rfl
  | load bytes =>
    cases h
    obtain e | e := s.loadProgram_cases bytes
    · simp [e] at hphase
    · simp [e, hnone]
  | cycle r =>
    obtain ⟨-, e⟩ | ⟨_, -, -, e⟩ | ⟨_, i, -, -, e⟩ := s.cycle_cases r
    · cases e.symm.trans h
      simp at hphase
    · cases e.symm.trans h
      simp at hphase
    · have hkept := (exec_keeps_fault_or_halts (e.symm.trans h)).resolve_right hphase
      exact hkept.trans hnone
  | tick =>
    cases h
    simp [State.tick_eq, hnone]
  | getDisplay | setKey =>
    cases h
    exact hnone

/-- Settles O57: memory stays canonical whatever the transaction; a step either raises a fault, which writes record and
phase together, or completes (`step_raises_or_completes`), and then none was on record before it or is after it. -/
theorem stepKeepsTheInvariant : Obligations.StepKeepsTheInvariant := by
  unfold Obligations.StepKeepsTheInvariant
  rintro s t ⟨hwf, hcoherent⟩ hstep
  obtain ⟨hmove, ht⟩ := step_eq_next hstep
  refine ⟨State.transact_keeps_wf (s := s.setPort s.port.taken) hwf ht, ?_⟩
  obtain ⟨reason, opcode, p, -, rfl⟩ | ⟨-, hphase, -⟩ := step_raises_or_completes hstep
  · exact State.raise_faultCoherent ..
  · have hnone := hcoherent.fault_eq_none (ne_halted_of_stuck_eq_none hmove)
    exact State.Unfaulted.faultCoherent
      ⟨State.transact_fault_eq_none (s := s.setPort s.port.taken) hnone ht hphase, hphase⟩

/-! ### The bounds of PC and the stack -/

/-- Where `PC` is after an instruction that was fetched from memory, so that the advanced `PC` is 2 to 0x1000. -/
theorem exec_pc_le {i : Instr} {s t : State} (hlow : 2 ≤ s.pc.toNat) (hhigh : s.pc.toNat ≤ 0x1000)
    (hstack : ∀ k : Fin 16, s.stack[k].toNat ≤ 0x1000) (h : exec i s = .next t) : t.pc.toNat ≤ 0x10FE := by
  obtain (e | e | e) | ⟨nnn, -, e⟩ | ⟨nnn, -, e⟩ | ⟨-, k, e⟩ := exec_pc h <;> rw [e]
  · omega
  · bv_omega
  · bv_omega
  · rw [zext16_toNat]
    omega
  · rw [jpV0_target_toNat]
    omega
  · have hk := hstack k
    omega

/-- The entry a CALL pushes is the advanced `PC`; the others stay. -/
theorem exec_stack_le {i : Instr} {s t : State} (hpc : s.pc.toNat ≤ 0x1000)
    (hstack : ∀ k : Fin 16, s.stack[k].toNat ≤ 0x1000) (h : exec i s = .next t) (k : Fin 16) :
    t.stack[k].toNat ≤ 0x1000 := by
  obtain hkept | ⟨nnn, hlt, -, hpushed⟩ := exec_stack h
  · rw [hkept]
    exact hstack k
  · rw [hpushed, Fin.getElem_fin, Vector.getElem_set]
    split
    · exact hpc
    · exact hstack k

theorem State.cycle_keeps_pcBounded {s t : State} {r : Option Byte} (hbounded : s.PcBounded)
    (h : s.cycle r = .next t) : t.PcBounded := by
  obtain ⟨-, e⟩ | ⟨_, -, -, e⟩ | ⟨w, i, hfetch, -, e⟩ := s.cycle_cases r
  · cases e.symm.trans h
    exact hbounded
  · cases e.symm.trans h
    exact hbounded
  · obtain ⟨-, hstack⟩ := hbounded
    obtain ⟨hin, -⟩ := State.fetch16_eq_some.mp hfetch
    have hadvanced : (s.beginCycle r).pc.toNat = s.pc.toNat + 2 := by
      rw [State.beginCycle_eq]
      bv_omega
    have hexec := e.symm.trans h
    exact ⟨exec_pc_le (s := s.beginCycle r) (by omega) (by omega) hstack hexec,
      exec_stack_le (s := s.beginCycle r) (by omega) hstack hexec⟩

theorem State.resetWith_pcBounded (f : Config.Font) (p : HostPort) : (State.resetWith f p).PcBounded := by
  obtain ⟨-, -, hpc, hstack, -⟩ := State.resetWith_atReset f p
  exact ⟨by simp [hpc], fun k => by simp [hstack k]⟩

/-- Settles O58: RESET writes 0x200 and zeros; a CYCLE starts from a `PC` it could fetch from, at most 0xFFE; no other
transaction writes `PC` or the stack. -/
theorem stepKeepsPcBounded : Obligations.StepKeepsPcBounded := by
  unfold Obligations.StepKeepsPcBounded
  intro s t hbounded hstep
  obtain ⟨-, ht⟩ := step_eq_next hstep
  cases hx : s.port.next with
  | reset =>
    rw [hx] at ht
    cases ht
    exact State.resetWith_pcBounded _ _
  | cycle r =>
    rw [hx] at ht
    exact State.cycle_keeps_pcBounded (s := s.setPort s.port.taken) hbounded ht
  | load bytes =>
    rw [hx] at ht
    cases ht
    obtain e | e := (s.setPort s.port.taken).loadProgram_cases bytes <;> rw [e] <;> exact hbounded
  | tick =>
    rw [hx] at ht
    cases ht
    rw [State.tick_eq]
    exact hbounded
  | getDisplay | setKey =>
    rw [hx] at ht
    cases ht
    exact hbounded

/-- Settles O59: the state at reset lists no byte, has no fault and is Constructed; its `PC` and stack are those of
`State.resetWith`. -/
theorem resetMeetsTheInvariants : Obligations.ResetMeetsTheInvariants := by
  unfold Obligations.ResetMeetsTheInvariants
  have hunfaulted : State.reset.Unfaulted := ⟨rfl, nofun⟩
  have hbounded := State.resetWith_pcBounded defaultFont HostPort.reset
  rw [State.resetWith_default] at hbounded
  exact ⟨⟨Memory.wf_reset, hunfaulted.faultCoherent⟩, hbounded, hunfaulted⟩

end Sys2Proof.Machine
end

section
/-! What follows from the instructions' own statements: a draw undone by the same draw (O22), a call undone by its
return (O28), VF as the destination (O36), the masked random byte (O37), and stored bytes fetched (O43). -/

namespace Sys2Proof.Machine

/-! ### A draw drawn twice (41_display.md R102) -/

/-- The sprite's pixels depend on `I` and the sprite's bytes alone. -/
theorem State.spriteHits_congr {s u : State} {x0 y0 n : Nat} (hi : u.i = s.i)
    (hbytes : ∀ r, r < n → u.mem.read (s.i.toNat + r) = s.mem.read (s.i.toNat + r)) (px : Fin 64) (py : Fin 32) :
    u.SpriteHits x0 y0 n px py ↔ s.SpriteHits x0 y0 n px py := by
  unfold State.SpriteHits
  rw [hi]
  refine exists_congr fun r => exists_congr fun c => and_congr_right fun hr => ?_
  rw [hbytes r hr]

/-- Settles O22: both draws flip the pixels of one sprite, so the second restores them, and it collides where the first
set a pixel. -/
theorem drwTwiceRestoresTheDisplay : Obligations.DrwTwiceRestoresTheDisplay := by
  unfold Obligations.DrwTwiceRestoresTheDisplay
  intro x y n s t u hin hexec hdisp hx hy hi hbytes
  obtain ⟨-, hdrw⟩ := drwXorsTheSpriteAndSetsVf x y n
  obtain ⟨t', ht', hfirst, -⟩ := (hdrw s).1 hin
  obtain rfl : t' = t := Host.Outcome.next.inj (ht'.symm.trans hexec)
  obtain ⟨w, hw, hsecond, hset, hclear, -⟩ := (hdrw u).1 (by rwa [hi])
  simp only [hx, hy, State.spriteHits_congr hi hbytes, hdisp] at hsecond hset hclear
  have hwritten : ∀ px py, Display.pixel s.disp px py = false ∧ Display.pixel t'.disp px py = true ↔
      s.SpriteHits (s.readV x).toNat (s.readV y).toNat n.toNat px py ∧ Display.pixel t'.disp px py = true := by
    intro px py
    by_cases hhit : s.SpriteHits (s.readV x).toNat (s.readV y).toNat n.toNat px py
    · simp [(hfirst px py).1 hhit, hhit]
    · simp [(hfirst px py).2 hhit, hhit]
  refine ⟨w, hw, display_ext fun px py => ?_, ?_, ?_⟩
  · by_cases hhit : s.SpriteHits (s.readV x).toNat (s.readV y).toNat n.toNat px py
    · rw [(hsecond px py).1 hhit, (hfirst px py).1 hhit, Bool.not_not]
    · rw [(hsecond px py).2 hhit, (hfirst px py).2 hhit]
  · simpa only [hwritten] using hset
  · simpa only [hwritten] using hclear

/-! ### A call and its return (42_flow.md R124) -/

/-- Settles O28: the return pops the entry the call pushed (O26, O27), which holds the advanced `PC`. -/
theorem callAndReturnRoundTrip : Obligations.CallAndReturnRoundTrip := by
  unfold Obligations.CallAndReturnRoundTrip
  intro nnn a k s hpc hsp
  obtain ⟨-, hcall⟩ := callPushesTheReturnAddress nnn
  obtain ⟨-, hret⟩ := retPopsTheReturnAddress
  obtain ⟨t, ht, hstack, hdepth, -⟩ := (hcall s).1 (by omega)
  refine ⟨t, ht, fun u husp hustack => ?_⟩
  obtain ⟨w, hw, hwsp, hwpc, -⟩ := (hret u).1 k (by rw [husp, hdepth, hsp])
  refine ⟨w, hw, ?_, Fin.ext (hwsp.trans hsp.symm)⟩
  rw [hwpc, hustack, hstack, if_pos hsp.symm, hpc]

/-! ### The random byte (43_alu.md R165) -/

theorem spelledBy_rnd (x : Reg) (nn : Byte) : SpelledBy 0xF000 0xC000 (.rnd x nn) :=
  spelledBy_of_formatXNN rfl rfl (by decide) (by simp [decodeWord])

theorem State.drawRandom_of_given {s : State} {r : Byte} (h : s.port.random = some r) : s.drawRandom = r := by
  simp [State.drawRandom, h]

/-- A draw used up changes the host's port alone. -/
theorem State.consumeRandom_onlyChanges (s : State) : OnlyChanges [.port] s s.consumeRandom := by
  intro p hp
  cases p with
  | port => simp at hp
  | _ => simp [Part.Same]

theorem OnlyChanges.mono {parts more : List Part} {s t : State} (h : OnlyChanges parts s t) (hsub : parts ⊆ more) :
    OnlyChanges more s t :=
  fun p hp => h p fun hmem => hp (hsub hmem)

/-- Settles O37: VX is the byte drawn, masked, and the draw is used up on the host's port. -/
theorem rndMasksTheDrawnByte : Obligations.RndMasksTheDrawnByte := by
  unfold Obligations.RndMasksTheDrawnByte
  refine fun x nn => ⟨spelledBy_rnd x nn, fun s =>
    ⟨s.consumeRandom.writeV x (s.drawRandom &&& nn), rfl, fun r hr => ?_, fun b hb => ?_, rfl, ?_, ?_⟩⟩
  · simp [State.drawRandom_of_given hr]
  · simp [hb]
  · exact s.consumeRandom.writeV_onlyRegs (List.mem_singleton_self x) _
  · exact (s.consumeRandom_onlyChanges.mono (by simp)).trans
      ((s.consumeRandom.writeV_onlyChanges x _).mono (by simp))

/-! ### VF as the destination (43_alu.md R162) -/

theorem Completes.imp {i : Instr} {s : State} {post post' : State → Prop} (h : Completes i s post)
    (himp : ∀ t, post t → post' t) : Completes i s post' := by
  obtain ⟨t, ht, hpost⟩ := h
  exact ⟨t, ht, himp t hpost⟩

theorem carryFlag_toNat (a b : Byte) : (carryFlag a b).toNat = if 255 < a.toNat + b.toNat then 1 else 0 := by
  simp [carryFlag, flagByte_toNat]

theorem noBorrowFlag_toNat (a b : Byte) : (noBorrowFlag a b).toNat = if b.toNat ≤ a.toNat then 1 else 0 := by
  simp [noBorrowFlag, flagByte_toNat]

/-- The bit shifted out to the left, doubled: bit 1 of VF if bit 7 was set. -/
theorem shiftedOutLeft_shiftLeft_one (a : Byte) :
    shiftedOutLeft a <<< 1 = if a.getLsbD 7 then 0x02 else 0x00 := by
  have hmsb : a.msb = a.getLsbD 7 := BitVec.msb_eq_getLsbD_last a
  rw [shiftedOutLeft, hmsb]
  cases a.getLsbD 7 <;> rfl

/-- An instruction whose last write is a flag leaves it in VF. -/
theorem completes_VF_of_setFlag {i : Instr} {s : State} {x : Reg} {b f : Byte}
    (h : exec i s = .next ((s.writeV x b).setFlag f)) : Completes i s fun t => t.readV VF = f :=
  (completes_of_writeV_setFlag h).imp fun _ ⟨_, hvf, _⟩ => hvf

/-- A shift with VF as its destination shifts the flag it has just written. -/
theorem completes_VF_of_shift {i : Instr} {s : State} {f : Byte} (shift : Byte → Byte)
    (h : exec i s = .next ((s.setFlag f).writeV VF (shift ((s.setFlag f).readV VF)))) :
    Completes i s fun t => t.readV VF = shift f :=
  (completes_of_setFlag_writeV shift h).imp fun _ ⟨_, hvf, _⟩ => hvf rfl

/-- An instruction that writes VX alone leaves the byte written in it. -/
theorem completes_readV_of_writeV {i : Instr} {s : State} {x : Reg} {b : Byte}
    (h : exec i s = .next (s.writeV x b)) : Completes i s fun t => t.readV x = b :=
  (completes_of_writeV h).imp fun _ ⟨hx, _⟩ => hx

/-- Settles O36: ADD, SUB and SUBN end with the flag's write, the shifts shift the flag, and the others write their
result alone. -/
theorem vfAsDestination : Obligations.VfAsDestination := by
  unfold Obligations.VfAsDestination
  refine fun y nn s => ⟨?add, ?sub, ?shr, ?subn, ?shl, completes_readV_of_writeV rfl, completes_readV_of_writeV rfl,
    completes_readV_of_writeV rfl, completes_readV_of_writeV rfl, completes_readV_of_writeV rfl,
    completes_readV_of_writeV rfl, ?rnd⟩
  case add => exact (completes_VF_of_setFlag rfl).imp fun _ hvf => hvf ▸ carryFlag_toNat _ _
  case sub => exact (completes_VF_of_setFlag rfl).imp fun _ hvf => hvf ▸ noBorrowFlag_toNat _ _
  case subn => exact (completes_VF_of_setFlag rfl).imp fun _ hvf => hvf ▸ noBorrowFlag_toNat _ _
  case shr =>
    refine (completes_VF_of_shift (· >>> 1) rfl).imp fun t hvf => ?_
    rw [hvf, shiftedOutRight_shiftRight_one]
    rfl
  case shl =>
    exact (completes_VF_of_shift (· <<< 1) rfl).imp fun t hvf => hvf.trans (shiftedOutLeft_shiftLeft_one _)
  case rnd =>
    obtain ⟨-, hrnd⟩ := rndMasksTheDrawnByte VF nn
    exact (hrnd s).imp fun _ ⟨hgiven, _⟩ => hgiven

/-! ### Stored bytes fetched (20_memory.md R63) -/

/-- A fetch reads the two bytes at its address, the lower one in the high half. -/
theorem State.fetch16_of_read {t : State} {a : Word} {n : Nat} {hi lo : Byte} (ha : a.toNat = n)
    (hin : n + 1 ≤ 0xFFF) (hhi : t.mem.read n = hi) (hlo : t.mem.read (n + 1) = lo) :
    t.fetch16 a = some (bigEndian hi lo) := by
  subst ha hhi hlo
  exact State.fetch16_eq_some.mpr ⟨hin, rfl⟩

/-- Settles O43: the bytes are where FX55 (O40) and FX33 (O39) put them, each next to the one after it. -/
theorem storedBytesAreFetchedNext : Obligations.StoredBytesAreFetchedNext := by
  unfold Obligations.StoredBytesAreFetchedNext
  refine fun x s => ⟨fun hin => ?_, fun hin => ?_⟩
  · obtain ⟨-, hstore⟩ := registerStoreWritesV0ToVx x
    refine ((hstore s).1 hin).imp fun t ⟨hread, _⟩ k j a hj hjx ha => ?_
    have hnext : s.dataAddr k.toNat + 1 = s.dataAddr j.toNat := by simp only [State.dataAddr, hj, Nat.add_assoc]
    have hlast : s.dataAddr j.toNat ≤ s.dataAddr x.toNat := Nat.add_le_add_left hjx _
    exact State.fetch16_of_read ha (by omega) (hread k (by omega)) (hnext ▸ hread j hjx)
  · obtain ⟨-, hstore⟩ := bcdStoresThreeDigits x
    refine ((hstore s).1 hin).imp fun t ⟨hundreds, tens, ones, _⟩ a => ⟨fun ha => ?_, fun ha => ?_⟩
    · refine ⟨_, State.fetch16_of_read ha (Nat.le_of_succ_le hin) rfl rfl, ?_⟩
      rw [bigEndian_toNat, hundreds]
      exact congrArg _ tens
    · refine ⟨_, State.fetch16_of_read ha hin rfl rfl, ?_⟩
      rw [bigEndian_toNat, tens]
      exact congrArg _ ones

end Sys2Proof.Machine
end
